-- ==== Sys2Proof/Word.lean ====
section
/-! DEFINITION. The word types of the CubeHash core: the 32-bit word of spec/00_scope.md R6 and the
byte of R9, with the one rotation R8 defines. Bits are numbered from 0, the least significant (R7). -/

namespace Sys2Proof

/-- A word: a 32-bit bit vector, read unsigned (R6). -/
abbrev Word := BitVec 32

/-- A byte of the block buffer or of the digest (R9, R38, R210). -/
abbrev Byte := BitVec 8

/-- The state words X[0..32) (R30): exactly 32 words. -/
abbrev Words := Vector Word 32

/-- One half of the state: X[0..16) is "low", X[16..32) is "high" (R30). -/
abbrev Half := Vector Word 16

end Sys2Proof
end

