-- ==== Sys2Proof/Syntax.lean ====
section
/-! DEFINITION. The commands of the block (one constructor per row of spec/opcode_table.json), the pair of words
that carries a command (spec/30_encoding.md R81), and the assembler's lines (R94 to R96). -/

namespace Sys2Proof

/-- A command as it crosses the port: the command word and the operand word (R81). -/
structure Command where
  cmd : Word
  opd : Word
deriving DecidableEq, Repr

/-- The nine commands of R86. A field of the command word has the width of its field (R83, R84), an operand the
width of opd (R85, R90); a command that ignores opd has no operand. -/
inductive Instr where
  /-- NOP (R233). -/
  | nop
  /-- INIT (R142): block size b in bytes, output size h in bits, rounds r. -/
  | init (b : BitVec 8) (h : BitVec 10) (r : Word)
  /-- ABSORB (R164): one message byte. -/
  | absorb (d : Byte)
  /-- FINAL (R190). -/
  | final
  /-- PERM (R116): the round count. -/
  | perm (n : Word)
  /-- RDSTATE (R230): a state word index. -/
  | rdstate (i : BitVec 5)
  /-- WRSTATE (R231): a state word index and the value. -/
  | wrstate (i : BitVec 5) (v : Word)
  /-- RDDIGEST (R211): a digest byte index. -/
  | rddigest (k : BitVec 7)
  /-- RDCSR (R232): a control-register number. -/
  | rdcsr (c : BitVec 8)
deriving DecidableEq, Repr

/-- The commands that use opd (R90): INIT (r), PERM (the round count) and WRSTATE (the value). -/
def Instr.usesOpd : Instr → Bool
  | .nop => false
  | .init _ _ _ => true
  | .absorb _ => false
  | .final => false
  | .perm _ => true
  | .rdstate _ => false
  | .wrstate _ _ => true
  | .rddigest _ => false
  | .rdcsr _ => false

/-- One line of assembly that stands for one command (R94) or for a raw pair of words (R95). Operands are the
numbers as written, of any size; `AsmLine.wellFormed` says which of them fit. -/
inductive AsmLine where
  | nop
  | init (r b h : Nat)
  | absorb (d : Nat)
  | final
  | perm (n : Nat)
  | rdstate (i : Nat)
  | wrstate (i v : Nat)
  | rddigest (k : Nat)
  | rdcsr (c : Nat)
  | word (cmd opd : Nat)
deriving DecidableEq, Repr

/-- One statement of assembly: a line, or a pseudo-instruction (R96). A message is its bytes, as numbers. -/
inductive AsmStmt where
  | line (l : AsmLine)
  | rdstatus
  | absorbs (m : List Nat)
  | iv (r b h : Nat)
  | hash (r b h : Nat) (m : List Nat)
  | hash256 (r b : Nat) (m : List Nat)
  | hash512 (r b : Nat) (m : List Nat)
deriving DecidableEq, Repr

/-- A command written as an assembly line, in R94's operand order. -/
def Instr.toAsm : Instr → AsmLine
  | .nop => .nop
  | .init b h r => .init r.toNat b.toNat h.toNat
  | .absorb d => .absorb d.toNat
  | .final => .final
  | .perm n => .perm n.toNat
  | .rdstate i => .rdstate i.toNat
  | .wrstate i v => .wrstate i.toNat v.toNat
  | .rddigest k => .rddigest k.toNat
  | .rdcsr c => .rdcsr c.toNat

end Sys2Proof
end

