-- ==== Sys2Proof/WellFormed.lean ====
section
/-! DEFINITION. Which terms have an encoding. A field of `Instr` cannot hold a value that does not fit (its type has the
field's width), so the checks are those of the assembler, spec/30_encoding.md R94: it refuses a field value that does
not fit its field, and it encodes every value that fits, legal or not. -/

namespace Sys2Proof

/-- R94: b > 255, h > 1023, d > 255, i > 31, k > 127, c > 255 and r, n, v > 2^32 - 1 are refused; R95: a raw pair is
two 32-bit words. -/
def AsmLine.wellFormed : AsmLine → Bool
  | .nop => true
  | .init r b h => decide (r < 2 ^ 32 ∧ b < 256 ∧ h < 1024)
  | .absorb d => decide (d < 256)
  | .final => true
  | .perm n => decide (n < 2 ^ 32)
  | .rdstate i => decide (i < 32)
  | .wrstate i v => decide (i < 32 ∧ v < 2 ^ 32)
  | .rddigest k => decide (k < 128)
  | .rdcsr c => decide (c < 256)
  | .word cmd opd => decide (cmd < 2 ^ 32 ∧ opd < 2 ^ 32)

/-- An instruction is well formed when its assembly line is. -/
def Instr.wellFormed (i : Instr) : Bool := i.toAsm.wellFormed

end Sys2Proof
end

