-- ==== Sys2Proof/Decode.lean ====
section
/-! DEFINITION. The decoder, total on every command (spec/30_encoding.md R82 to R89), and the encoder (R83, R94). -/

namespace Sys2Proof

/-- Why a command word is no legal command (R89): an illegal opcode (R87) or a reserved bit that is 1 (R88). -/
inductive DecodeError where
  /-- ILLEGAL: the opcode is one of 0x9 to 0xF. -/
  | illegal
  /-- RESERVED: a legal opcode, and a reserved bit of its format is 1. -/
  | reserved
deriving DecidableEq, Repr

/-- OP = cmd[3:0] (R82). -/
def opcode (cmd : Word) : BitVec 4 := cmd.extractLsb' 0 4

/-- B = cmd[11:4] of format FI (R83). -/
def fieldB (cmd : Word) : BitVec 8 := cmd.extractLsb' 4 8
/-- H = cmd[21:12] of format FI (R83). -/
def fieldH (cmd : Word) : BitVec 10 := cmd.extractLsb' 12 10
/-- D = cmd[11:4] of format FB (R83). -/
def fieldD (cmd : Word) : Byte := cmd.extractLsb' 4 8
/-- I = cmd[8:4] of format FS (R83). -/
def fieldI (cmd : Word) : BitVec 5 := cmd.extractLsb' 4 5
/-- K = cmd[10:4] of format FD (R83). -/
def fieldK (cmd : Word) : BitVec 7 := cmd.extractLsb' 4 7
/-- C = cmd[11:4] of format FC (R83). -/
def fieldC (cmd : Word) : BitVec 8 := cmd.extractLsb' 4 8

/-- RESMASK of R89: the reserved bits of each legal opcode's format. The illegal opcodes have no format. -/
def resMask (op : BitVec 4) : Word :=
  match op.toNat with
  | 0 => 0xFFFFFFF0
  | 1 => 0xFFC00000
  | 2 => 0xFFFFF000
  | 3 => 0xFFFFFFF0
  | 4 => 0xFFFFFFF0
  | 5 => 0xFFFFFE00
  | 6 => 0xFFFFFE00
  | 7 => 0xFFFFF800
  | 8 => 0xFFFFF000
  | _ => 0

/-- The instruction whose opcode and fields a command has, its reserved bits not looked at (R86). -/
def dispatchOp (c : Command) : Option Instr :=
  match (opcode c.cmd).toNat with
  | 0 => some .nop
  | 1 => some (.init (fieldB c.cmd) (fieldH c.cmd) c.opd)
  | 2 => some (.absorb (fieldD c.cmd))
  | 3 => some .final
  | 4 => some (.perm c.opd)
  | 5 => some (.rdstate (fieldI c.cmd))
  | 6 => some (.wrstate (fieldI c.cmd) c.opd)
  | 7 => some (.rddigest (fieldK c.cmd))
  | 8 => some (.rdcsr (fieldC c.cmd))
  | _ => none

/-- `decode` of R89: first the opcode, then the reserved bits. -/
def decode (c : Command) : Except DecodeError Instr :=
  match dispatchOp c with
  | none => .error .illegal
  | some i => if c.cmd &&& resMask (opcode c.cmd) = 0 then .ok i else .error .reserved

/-- The words of an instruction: each field at its place in the format (R83), the opcode in the low four bits (R86), the
reserved bits 0; opd is 0 where the command ignores it (R94). -/
def encode : Instr → Command
  | .nop => ⟨0x0, 0⟩
  | .init b h r => ⟨h.setWidth 32 <<< 12 ||| b.setWidth 32 <<< 4 ||| 0x1, r⟩
  | .absorb d => ⟨d.setWidth 32 <<< 4 ||| 0x2, 0⟩
  | .final => ⟨0x3, 0⟩
  | .perm n => ⟨0x4, n⟩
  | .rdstate i => ⟨i.setWidth 32 <<< 4 ||| 0x5, 0⟩
  | .wrstate i v => ⟨i.setWidth 32 <<< 4 ||| 0x6, v⟩
  | .rddigest k => ⟨k.setWidth 32 <<< 4 ||| 0x7, 0⟩
  | .rdcsr c => ⟨c.setWidth 32 <<< 4 ||| 0x8, 0⟩

/-- The command whose bits are `w`, numbered as spec/opcode_table.json numbers them: cmd is bits 31..0, opd (to which
the table gives no bits) is bits 63..32, and every bit at or above `nbits` is 0 (log
entry 13). -/
def commandOfBits (nbits w : Nat) : Command :=
  let v := w % 2 ^ nbits
  ⟨BitVec.ofNat 32 v, BitVec.ofNat 32 (v / 2 ^ 32)⟩

/-- The instruction the decoder reads from the bits `w`; none where it rejects them. -/
def decodeTableWord (nbits w : Nat) : Option Instr :=
  match decode (commandOfBits nbits w) with
  | .ok i => some i
  | .error _ => none

end Sys2Proof
end

