-- ==== Sys2Proof/Config.lean ====
section
/-! DEFINITION. What is fixed for the block: the implementation parameters of spec/00_scope.md R5, and the
values the spec leaves open, each an uninterpreted constant. -/

namespace Sys2Proof.Config

/-! ## The fixed values of R5 -/

/-- ROT_A: the rotation of step 2 of a round. -/
abbrev rotA : Nat := 7
/-- ROT_B: the rotation of step 6 of a round. -/
abbrev rotB : Nat := 11
/-- R_MIN. R_MAX, 2^32 - 1, is the largest value of the 32-bit operand. -/
abbrev rMin : Nat := 1
/-- B_MIN. -/
abbrev bMin : Nat := 1
/-- B_MAX. -/
abbrev bMax : Nat := 128
/-- H_MIN. -/
abbrev hMin : Nat := 8
/-- H_MAX. -/
abbrev hMax : Nat := 512
/-- H_STEP. -/
abbrev hStep : Nat := 8
/-- IV_CALLS: StateTransform calls of r rounds from the seed to the IV. -/
abbrev ivCalls : Nat := 10
/-- FINAL_CALLS: StateTransform calls of r rounds in the finalization. -/
abbrev finalCalls : Nat := 10
/-- PAD_BYTE: the terminator after the message. -/
abbrev padByte : Byte := 0x80
/-- FINAL_FLIP: what X[31] is XORed with. -/
abbrev finalFlip : Word := 1

/-! ## Values the spec leaves open

No body: nothing can be proved of a value of these. Each is applied to the number of the reset (the field
`draws` of State), so that two resets need not leave the same values. -/

/-- X[i] after reset number `draw` of the port `rst`: unspecified (R32, R290; log entry 4). -/
opaque resetX : (draw i : Nat) → Word
/-- BUF[j] after reset number `draw`: unspecified (R38, R290; log entry 4). -/
opaque resetBuf : (draw j : Nat) → Byte
/-- rsp_ok after reset number `draw`, until the next response: unspecified (R290; log entry 4). -/
opaque resetRspOk : (draw : Nat) → Bool
/-- rsp_data after reset number `draw`, until the next response: unspecified (R290; log entry 4). -/
opaque resetRspData : (draw : Nat) → Word
/-- CMD_LATENCY less 1: an OPEN parameter (R5, R80, R297; log entry 8), which may depend on the command's opcode and
its round count. -/
opaque latencyBeyondOne : (opcode rounds : Nat) → Nat

end Sys2Proof.Config
end

