-- ==== Sys2Proof/Machine/State.lean ====
section
/-! DEFINITION. The state of the block (spec/10_state.md), its ports as far as they hold a value (spec/30_encoding.md
R80), and the state after reset (spec/70_reset_and_hazards.md R290). -/

namespace Sys2Proof.Machine

/-- PHASE (R33), a 2-bit register whose four values all have a name; `Phase.code` gives the bits. -/
inductive Phase where
  | uninit
  | inited
  | absorbing
  | output
deriving DecidableEq, Repr

/-- The reasons a command is rejected (R261); `RejectCode.code` gives the value ERR takes. A rejection is the
block's own behaviour, a next state, and no fault of the model. -/
inductive RejectCode where
  | badR
  | badB
  | badH
  | illegal
  | reserved
  | phase
  | index
deriving DecidableEq, Repr

/-- What the outside does to the block next (R10, R80): a command transfers, or reset rises while the block is idle
(R290) or after a command has transferred and before its response (R291; log
entries 14 and 15). -/
inductive HostInput where
  | command (c : Command)
  | reset
  | resetDuring (c : Command)
deriving DecidableEq, Repr

/-- A response (R93). -/
structure Response where
  ok : Bool
  data : Word
deriving DecidableEq, Repr

/-- The state of the block. -/
structure State where
  /-- X[0..32) (R30). -/
  x : Words
  /-- PHASE (R33). -/
  phase : Phase
  /-- CFG_R, 32 bits (R35). -/
  cfgR : Word
  /-- CFG_B, 8 bits (R36). -/
  cfgB : BitVec 8
  /-- CFG_H, 10 bits (R37). -/
  cfgH : BitVec 10
  /-- BUF[0..128) (R38). -/
  buf : Vector Byte 128
  /-- BCOUNT, 8 bits (R39). -/
  bcount : BitVec 8
  /-- ERR, 4 bits (R40). -/
  err : BitVec 4
  /-- The port rsp_valid (R80): the last step ended a command, whose response it signals. -/
  rspValid : Bool
  /-- The port rsp_ok (R80, R93), held until the next response. -/
  rspOk : Bool
  /-- The port rsp_data (R80, R93), held until the next response. -/
  rspData : Word
  /-- What the outside does next, first first (R10, R43, R69; log entry 5). -/
  stream : List HostInput
  /-- The model's own field, not the spec's: the number of resets so far, which free values are applied to (log
  entry 4). -/
  draws : Nat
deriving DecidableEq, Repr

/-- Why a step stops. No run from reset raises one. -/
inductive Fault where
  /-- Raised by ABSORB and FINAL where their pseudocode (R164, R190) writes a byte BUF[j] with j at or above 128, which
  R38 does not give: only in a state with BCOUNT >= 128 or CFG_B > 128, which no run reaches (R36, R39). Safe: the
  model stops where the spec has no byte to write (log entry 7). -/
  | bufferIndex
deriving DecidableEq, Repr

/-- Why an instruction is given no meaning. No instruction of this model is refused. -/
inductive Refusal where
  /-- Raised by an arm of `exec` whose instruction has no meaning yet. Safe: the model says nothing of it. -/
  | notModelled (mnemonic : String)
deriving DecidableEq, Repr

/-- The state after reset (R290). The registers R290 sets have its values; X and BUF (R32, R38), rsp_ok and rsp_data,
which it leaves unspecified, are zero here by choice (log entries 1, 2 and 3). -/
def State.reset : State where
  x := Vector.replicate 32 0
  phase := .uninit
  cfgR := 0
  cfgB := 0
  cfgH := 0
  buf := Vector.replicate 128 0
  bcount := 0
  err := 0
  rspValid := false
  rspOk := false
  rspData := 0
  stream := []
  draws := 0

/-- The response the ports hold. -/
def State.response (s : State) : Response := ⟨s.rspOk, s.rspData⟩

end Sys2Proof.Machine
end

