-- ==== Sys2Proof/Machine/Flags.lean ====
section
/-! DEFINITION. The only indicators of the block (spec/10_state.md R44): the codes of PHASE (R33) and ERR (R261), and
STATUS, assembled from the registers (R41). -/

namespace Sys2Proof.Machine

/-- The 2-bit code of a phase (R33). -/
def Phase.code : Phase → BitVec 2
  | .uninit => 0
  | .inited => 1
  | .absorbing => 2
  | .output => 3

/-- INITED or ABSORBING: the phases in which a computation takes message bytes (R34, R264). -/
def Phase.isOpen : Phase → Bool
  | .uninit => false
  | .inited => true
  | .absorbing => true
  | .output => false

/-- The value ERR takes (R261). -/
def RejectCode.code : RejectCode → BitVec 4
  | .badR => 1
  | .badB => 2
  | .badH => 3
  | .illegal => 4
  | .reserved => 5
  | .phase => 6
  | .index => 7

/-- The configuration errors, codes 1, 2 and 3 (R261, R266). -/
def RejectCode.isConfig : RejectCode → Bool
  | .badR => true
  | .badB => true
  | .badH => true
  | .illegal => false
  | .reserved => false
  | .phase => false
  | .index => false

/-- STATUS (R41): PHASE in bits 1:0, ERR in bits 7:4, BCOUNT in bits 15:8, the other bits 0. -/
def State.status (s : State) : Word :=
  s.bcount.setWidth 32 <<< 8 ||| s.err.setWidth 32 <<< 4 ||| s.phase.code.setWidth 32

end Sys2Proof.Machine
end

