-- ==== Sys2Proof/Machine/Operands.lean ====
section
/-! DEFINITION. The index spaces of spec/20_memory.md R60 and how a command's index reaches them: state words, digest
bytes, control registers, block-buffer bytes. Indices are unsigned and used as read (spec/30_encoding.md R84). -/

namespace Sys2Proof.Machine

/-- X[i] for the index field of format FS; every value of the field is an index (R64). -/
def readWord (x : Words) (i : BitVec 5) : Word := x[i.toNat]'i.isLt

/-- `X[i] <- v`. -/
def writeWord (x : Words) (i : BitVec 5) (v : Word) : Words := x.set i.toNat v i.isLt

/-- D[k] = X[k div 4][8·(k mod 4) + 7 : 8·(k mod 4)] (R210), for the index field of format FD. -/
def digestByte (x : Words) (k : BitVec 7) : Byte :=
  (x[k.toNat / 4]'(by have := k.isLt; omega)).extractLsb' (8 * (k.toNat % 4)) 8

/-- The control registers RDCSR reads, by number, zero-extended (R42, R232); the numbers 4..255 name none. -/
def readCsr (s : State) (c : BitVec 8) : Option Word :=
  match c.toNat with
  | 0 => some s.status
  | 1 => some s.cfgR
  | 2 => some (s.cfgB.setWidth 32)
  | 3 => some (s.cfgH.setWidth 32)
  | _ => none

end Sys2Proof.Machine
end

