-- ==== Sys2Proof/Machine/Transform.lean ====
section
/-! DEFINITION. StateTransform (spec/40_state_transform.md): the round in the seven steps of R110, the round in the
closed form of R112, the round as the loops of R110 are written, and T(n) (R113). -/

namespace Sys2Proof.Machine

/-- `rotl(v, k)` of R8, for 0 < k < 32. -/
def rotl (v : Word) (k : Nat) : Word := (v <<< k) ||| (v >>> (32 - k))

/-- The 16 lanes of one step. -/
def lanes (f : Fin 16 → Word) : Half := Vector.ofFn f

/-- The low half X[0..16) (R30). -/
def lowHalf (x : Words) : Half := lanes fun i => x[i.val]

/-- The high half X[16..32) (R30). -/
def highHalf (x : Words) : Half := lanes fun i => x[16 + i.val]

/-! ## The round, step by step (R110)

`y[i xor k] <- v[i]` over all i is read by its inverse: y[j] is v[j xor k], since i -> i xor k is a bijection of
[0,16) that is its own inverse (R111; log entry 10). -/

/-- The temporaries of a round (R110): no state. -/
structure Temps where
  lo : Half
  hi : Half
  y : Half
deriving DecidableEq, Repr

/-- What y holds after `for i in [0,16): y[i xor k] <- v[i]` (R110, R111). -/
def stash (k : Fin 16) (v : Half) : Half := lanes fun j => v[j ^^^ k]

/-- Step 1: hi[i] <- hi[i] + lo[i]; y[i xor 8] <- lo[i]. -/
def step1 (t : Temps) : Temps := { t with hi := lanes fun i => t.hi[i] + t.lo[i], y := stash 8 t.lo }
/-- Step 2: lo[i] <- rotl(y[i], 7) xor hi[i]. -/
def step2 (t : Temps) : Temps := { t with lo := lanes fun i => rotl t.y[i] Config.rotA ^^^ t.hi[i] }
/-- Step 3: y[i xor 2] <- hi[i]. -/
def step3 (t : Temps) : Temps := { t with y := stash 2 t.hi }
/-- Step 4: hi[i] <- y[i] + lo[i]. -/
def step4 (t : Temps) : Temps := { t with hi := lanes fun i => t.y[i] + t.lo[i] }
/-- Step 5: y[i xor 4] <- lo[i]. -/
def step5 (t : Temps) : Temps := { t with y := stash 4 t.lo }
/-- Step 6: lo[i] <- rotl(y[i], 11) xor hi[i]. -/
def step6 (t : Temps) : Temps := { t with lo := lanes fun i => rotl t.y[i] Config.rotB ^^^ t.hi[i] }
/-- Step 7: hi[i] and hi[i+1] change places, for even i. -/
def step7 (t : Temps) : Temps := { t with hi := lanes fun i => t.hi[i ^^^ 1] }

/-- The temporaries before step 1. What y holds is of no account: step 1 writes all of it (R111). -/
def loadTemps (x : Words) : Temps := ⟨lowHalf x, highHalf x, lowHalf x⟩

/-- Round() of R110. -/
def oneRound (x : Words) : Words :=
  let t := step7 (step6 (step5 (step4 (step3 (step2 (step1 (loadTemps x)))))))
  t.lo ++ t.hi

/-! ## The two other readings of the round -/

/-- The closed form of the round (R112). -/
def roundClosed (x : Words) : Words :=
  let lo := lowHalf x
  let hi := highHalf x
  let h1 := lanes fun i => hi[i] + lo[i]
  let l2 := lanes fun i => rotl lo[i ^^^ 8] Config.rotA ^^^ h1[i]
  let h2 := lanes fun i => h1[i ^^^ 2] + l2[i]
  (lanes fun i => rotl l2[i ^^^ 4] Config.rotB ^^^ h2[i]) ++ (lanes fun i => h2[i ^^^ 1])

/-- `for i in [0,16): body i`, in that order (R9). -/
def forLanes {α : Type} (a : α) (body : α → Fin 16 → α) : α := (List.finRange 16).foldl body a

/-- `v[i] <- w`. -/
def setLane (v : Half) (i : Fin 16) (w : Word) : Half := v.set i.val w

/-- Round() as the loops of R110 are written, one assignment at a time, from any content `y` of the temporary. -/
def roundLoops (y : Half) (x : Words) : Words :=
  let t : Temps := ⟨lowHalf x, highHalf x, y⟩
  let t := forLanes t fun t i =>
    { t with hi := setLane t.hi i (t.hi[i] + t.lo[i]), y := setLane t.y (i ^^^ 8) t.lo[i] }
  let t := forLanes t fun t i => { t with lo := setLane t.lo i (rotl t.y[i] Config.rotA ^^^ t.hi[i]) }
  let t := forLanes t fun t i => { t with y := setLane t.y (i ^^^ 2) t.hi[i] }
  let t := forLanes t fun t i => { t with hi := setLane t.hi i (t.y[i] + t.lo[i]) }
  let t := forLanes t fun t i => { t with y := setLane t.y (i ^^^ 4) t.lo[i] }
  let t := forLanes t fun t i => { t with lo := setLane t.lo i (rotl t.y[i] Config.rotB ^^^ t.hi[i]) }
  let t := ([0, 2, 4, 6, 8, 10, 12, 14] : List (Fin 16)).foldl
    (fun t i => { t with hi := setLane (setLane t.hi i t.hi[i + 1]) (i + 1) t.hi[i] }) t
  forLanes x fun x i => (x.set i.val t.lo[i]).set (16 + i.val) t.hi[i]

/-! ## T(n) -/

/-- `repeat n times: f`. -/
def times {α : Type} (n : Nat) (f : α → α) (a : α) : α :=
  match n with
  | 0 => a
  | n + 1 => times n f (f a)

/-- T(n) (R113): n rounds in succession; T(0) leaves X unchanged. -/
def transform (n : Nat) (x : Words) : Words := times n oneRound x

end Sys2Proof.Machine
end

