-- ==== Sys2Proof/Machine/Ops.lean ====
section
/-! DEFINITION. The operations the commands share: ending a command (spec/00_scope.md R9, R11, spec/30_encoding.md R93),
rejecting one (spec/60_exceptions.md R266), reset (spec/70_reset_and_hazards.md R290), and the block buffer's
operations (spec/42_absorb.md R163, spec/43_finalize.md R190). -/

namespace Sys2Proof.Machine

/-! ## Ending a command -/

/-- The response (R93): rsp_valid is raised, and rsp_ok and rsp_data take the response's values. -/
def respond (ok : Bool) (data : Word) (s : State) : State :=
  { s with rspValid := true, rspOk := ok, rspData := data }

/-- `respond(STATUS)` of an accepted command, after every write of it (R11). -/
def accept (s : State) : State := respond true s.status s

/-- What `raise Reject(code)` writes (R266): ERR, and PHASE where the code is a configuration error. -/
def markRejected (code : RejectCode) (s : State) : State :=
  { s with err := code.code, phase := if code.isConfig then .uninit else s.phase }

/-- `raise Reject(code)` (R266): none of the command's own writes, then ERR, then PHASE, then the response
(0, STATUS). This is the block's only exception, and it transfers control nowhere (R260): the host's next command
is the return from it (R270). -/
def reject (code : RejectCode) (s : State) : State :=
  respond false (markRejected code s).status (markRejected code s)

/-! ## The transitions that are no command -/

/-- Reset (R290, R291). What R290 leaves unspecified is a free value of this reset (log entry 4). -/
def applyReset (s : State) : State where
  x := Vector.ofFn fun i => Config.resetX s.draws i.val
  phase := .uninit
  cfgR := 0
  cfgB := 0
  cfgH := 0
  buf := Vector.ofFn fun j => Config.resetBuf s.draws j.val
  bcount := 0
  err := 0
  rspValid := false
  rspOk := Config.resetRspOk s.draws
  rspData := Config.resetRspData s.draws
  stream := s.stream
  draws := s.draws + 1

/-- No command is offered: the block is idle with all state retained (R275), and rsp_valid, which is high for one
cycle, is low (R80; log entry 6). -/
def idle (s : State) : State := { s with rspValid := false }

/-- The port cmd_ready (R80): low only while a command is in progress, and between two atomic steps none is (R10; log
entry 6). -/
def State.cmdReady (_ : State) : Bool := true

/-! ## The block buffer -/

/-- `BUF[BCOUNT] <- d; BCOUNT <- BCOUNT + 1; PHASE <- ABSORBING` (R164), where BUF[BCOUNT] exists. -/
def pushByte (d : Byte) (s : State) (h : s.bcount.toNat < 128) : State :=
  { s with buf := s.buf.set s.bcount.toNat d h, bcount := s.bcount + 1, phase := .absorbing }

/-- W of R163 for state word j: the bytes of BUF[0..b) that fall in it, the least significant first. -/
def blockWord (b : Nat) (buf : Vector Byte 128) (j : Fin 32) : Word :=
  (List.finRange 4).foldl
    (fun w t => if 4 * j.val + t.val < b then w ||| (buf[4 * j.val + t.val].setWidth 32 <<< (8 * t.val)) else w) 0

/-- The loop of AbsorbBlock (R163): X[j] <- X[j] xor W for j in [0, ceil(b/4)). -/
def xorBlock (b : Nat) (buf : Vector Byte 128) (x : Words) : Words :=
  Vector.ofFn fun j => if j.val < (b + 3) / 4 then x[j] ^^^ blockWord b buf j else x[j]

/-- AbsorbBlock() (R163). -/
def absorbBlock (s : State) : State :=
  { s with x := transform s.cfgR.toNat (xorBlock s.cfgB.toNat s.buf s.x) }

/-- BUF after `BUF[n] <- 0x80; for j in [n + 1, b): BUF[j] <- 0x00` (R190, R191). -/
def padBytes (n b : Nat) (buf : Vector Byte 128) : Vector Byte 128 :=
  Vector.ofFn fun j => if j.val = n then Config.padByte else if n < j.val ∧ j.val < b then 0 else buf[j]

/-- The last block's padding (R190), from BUF[BCOUNT] on. -/
def padBlock (s : State) : State :=
  { s with buf := padBytes s.bcount.toNat s.cfgB.toNat s.buf }

/-- `BCOUNT <- 0`. -/
def clearCount (s : State) : State := { s with bcount := 0 }

/-- `X[31] <- X[31] xor 0x00000001` (R192). -/
def flipEnd (x : Words) : Words := x.set 31 (x[31] ^^^ Config.finalFlip)

/-- Every byte FINAL writes exists: BUF[BCOUNT], and BUF[j] for j below CFG_B (R190, R38). -/
def State.blockFits (s : State) : Bool := decide (s.bcount.toNat < 128 ∧ s.cfgB.toNat ≤ 128)

end Sys2Proof.Machine
end

