-- ==== Sys2Proof/Machine/Absorb.lean ====
section
/-! DEFINITION. ABSORB (spec/42_absorb.md R164): one message byte. -/

namespace Sys2Proof.Machine

/-- The block is absorbed when its last byte has arrived (R164). -/
def absorbIfFull (s : State) : State :=
  if s.bcount = s.cfgB then clearCount (absorbBlock s) else s

/-- ABSORB (R164). -/
def execAbsorb (d : Byte) (s : State) : Host.Outcome State Fault Refusal :=
  if s.phase.isOpen then
    if h : s.bcount.toNat < 128 then .next (accept (absorbIfFull (pushByte d s h)))
    else .fault .bufferIndex
  else .next (reject .phase s)

end Sys2Proof.Machine
end

