-- ==== Sys2Proof/Machine/Access.lean ====
section
/-! DEFINITION. State and register access (spec/45_access.md): NOP, RDSTATE, WRSTATE, RDCSR. -/

namespace Sys2Proof.Machine

/-- NOP (R233). -/
def execNop (s : State) : Host.Outcome State Fault Refusal := .next (accept s)

/-- RDSTATE (R230). -/
def execRdstate (i : BitVec 5) (s : State) : Host.Outcome State Fault Refusal :=
  if s.phase = .uninit then .next (reject .phase s)
  else .next (respond true (readWord s.x i) s)

/-- WRSTATE (R231). -/
def execWrstate (i : BitVec 5) (v : Word) (s : State) : Host.Outcome State Fault Refusal :=
  if s.phase.isOpen then .next (accept { s with x := writeWord s.x i v })
  else .next (reject .phase s)

/-- RDCSR (R232). -/
def execRdcsr (c : BitVec 8) (s : State) : Host.Outcome State Fault Refusal :=
  match readCsr s c with
  | some v => .next (respond true v s)
  | none => .next (reject .index s)

end Sys2Proof.Machine
end

