-- ==== Sys2Proof/Machine/Digest.lean ====
section
/-! DEFINITION. RDDIGEST (spec/44_output.md R211): one digest byte. -/

namespace Sys2Proof.Machine

/-- RDDIGEST (R211). The phase check comes first (R267). -/
def execRddigest (k : BitVec 7) (s : State) : Host.Outcome State Fault Refusal :=
  if s.phase = .output then
    if k.toNat < s.cfgH.toNat / 8 then .next (respond true ((digestByte s.x k).setWidth 32) s)
    else .next (reject .index s)
  else .next (reject .phase s)

end Sys2Proof.Machine
end

