-- ==== Sys2Proof/Machine/Finalize.lean ====
section
/-! DEFINITION. The Finalizer and FINAL (spec/43_finalize.md). -/

namespace Sys2Proof.Machine

/-- The finalization of R192 and R193: X[31] is flipped, then ten T(CFG_R); PHASE becomes OUTPUT (R190). -/
def finish (s : State) : State :=
  { s with x := times Config.finalCalls (transform s.cfgR.toNat) (flipEnd s.x), phase := .output }

/-- FINAL (R190). -/
def execFinal (s : State) : Host.Outcome State Fault Refusal :=
  if s.phase.isOpen then
    if s.blockFits then .next (accept (finish (clearCount (absorbBlock (padBlock s)))))
    else .fault .bufferIndex
  else .next (reject .phase s)

end Sys2Proof.Machine
end

