-- ==== Sys2Proof/Machine/Init.lean ====
section
/-! DEFINITION. IVGenerator and INIT (spec/41_iv_generator.md). -/

namespace Sys2Proof.Machine

/-- The IV seed (R140): h/8, b, r, then 29 zero words. -/
def seed (r : Word) (b : BitVec 8) (h : BitVec 10) : Words :=
  (((Vector.replicate 32 0).set 0 (BitVec.ofNat 32 (h.toNat / 8))).set 1 (b.setWidth 32)).set 2 r

/-- The IV (R141): ten T(r) from the seed. -/
def ivWords (r : Word) (b : BitVec 8) (h : BitVec 10) : Words :=
  times Config.ivCalls (transform r.toNat) (seed r b h)

/-- The first configuration check of INIT that fails, in the order of R142 and R267; none where all pass. -/
def configError (r : Word) (b : BitVec 8) (h : BitVec 10) : Option RejectCode :=
  if r.toNat < Config.rMin then some .badR
  else if b.toNat < Config.bMin ∨ Config.bMax < b.toNat then some .badB
  else if h.toNat < Config.hMin ∨ Config.hMax < h.toNat ∨ h.toNat % Config.hStep ≠ 0 then some .badH
  else none

/-- INIT (R142). -/
def execInit (b : BitVec 8) (h : BitVec 10) (r : Word) (s : State) : Host.Outcome State Fault Refusal :=
  match configError r b h with
  | some code => .next (reject code s)
  | none =>
    .next (accept { s with
      cfgR := r, cfgB := b, cfgH := h, x := ivWords r b h, bcount := 0, phase := .inited, err := 0 })

end Sys2Proof.Machine
end

