-- ==== Sys2Proof/Machine/Perm.lean ====
section
/-! DEFINITION. PERM (spec/40_state_transform.md R116): one StateTransform call with an explicit round count. -/

namespace Sys2Proof.Machine

/-- PERM (R116). -/
def execPerm (n : Word) (s : State) : Host.Outcome State Fault Refusal :=
  if s.phase.isOpen then .next (accept { s with x := transform n.toNat s.x })
  else .next (reject .phase s)

end Sys2Proof.Machine
end

