-- ==== Sys2Proof/Machine/Dispatch.lean ====
section
/-! DEFINITION. One arm per command of spec/30_encoding.md R86, each a call of its meaning. -/

namespace Sys2Proof.Machine

def exec (i : Instr) (s : State) : Host.Outcome State Fault Refusal :=
  match i with
  | .nop => Sys2Proof.Machine.execNop s
  | .init b h r => Sys2Proof.Machine.execInit b h r s
  | .absorb d => Sys2Proof.Machine.execAbsorb d s
  | .final => Sys2Proof.Machine.execFinal s
  | .perm n => Sys2Proof.Machine.execPerm n s
  | .rdstate j => Sys2Proof.Machine.execRdstate j s
  | .wrstate j v => Sys2Proof.Machine.execWrstate j v s
  | .rddigest k => Sys2Proof.Machine.execRddigest k s
  | .rdcsr c => Sys2Proof.Machine.execRdcsr c s

end Sys2Proof.Machine
end

