-- ==== Sys2Proof/Machine/Issue.lean ====
section
/-! DEFINITION. `step(S, cmd, opd) -> (S', rsp)` of spec/00_scope.md R10: one command, decoded and carried out. -/

namespace Sys2Proof.Machine

/-- The error code of a decode rejection (R263). -/
def decodeReject : DecodeError → RejectCode
  | .illegal => .illegal
  | .reserved => .reserved

/-- One command (R10): a command word that does not decode is rejected, in every phase and before any other check
(R263, R267). The response is in the ports of the next state. -/
def issue (c : Command) (s : State) : Host.Outcome State Fault Refusal :=
  match decode c with
  | .error e => .next (reject (decodeReject e) s)
  | .ok i => exec i s

/-- What the outside does next, done (R10, R290, R291): reset aborts a command in progress. -/
def applyInput (input : HostInput) (s : State) : Host.Outcome State Fault Refusal :=
  match input with
  | .command c => issue c s
  | .reset => .next (applyReset s)
  | .resetDuring _ => .next (applyReset s)

end Sys2Proof.Machine
end

