-- ==== Sys2Proof/Machine/Step.lean ====
section
/-! DEFINITION. One step of the block: it takes what the outside does next from the head of the stream and does it;
with nothing in the stream it is idle (spec/00_scope.md R10, spec/70_reset_and_hazards.md R290, R298). -/

namespace Sys2Proof.Machine

/-- One step. -/
def step (s : State) : Host.Outcome State Fault Refusal :=
  match s.stream with
  | [] => .next (idle s)
  | input :: rest => applyInput input { s with stream := rest }

/-- `s` with the command of the bits `w` put where the next step takes its command (log entry 5). -/
def State.withFetchWord (s : State) (nbits w : Nat) : State :=
  { s with stream := .command (commandOfBits nbits w) :: s.stream }

end Sys2Proof.Machine
end

