-- ==== Sys2Proof/Machine/AsmText.lean ====
section
/-! DEFINITION. The assembler's source text (spec/30_encoding.md R94 to R96): one command per line, mnemonics
case-insensitive, numbers decimal or 0x-hexadecimal, `;` to the end of the line a comment. A line is its bytes, as
numbers. What R94 leaves open of the text is in log entry 11. -/

namespace Sys2Proof.Machine

/-- The pieces of a line. -/
inductive Token where
  | name (cs : List Nat)
  | number (n : Nat)
  | comma
  | text (bytes : List Nat)
deriving DecidableEq, Repr

/-- Where the reader of a line stands: between pieces, or inside a word or a string, whose bytes so far are kept
backwards. -/
inductive Reading where
  | between
  | inWord (back : List Nat)
  | inText (back : List Nat)
deriving DecidableEq, Repr

/-- The bytes of a name written in ASCII. -/
def ascii (cs : List Char) : List Nat := cs.map Char.toNat

def isUpper (c : Nat) : Bool := decide (65 ≤ c ∧ c ≤ 90)
def isLower (c : Nat) : Bool := decide (97 ≤ c ∧ c ≤ 122)
def isDigit (c : Nat) : Bool := decide (48 ≤ c ∧ c ≤ 57)

/-- Mnemonics are case-insensitive (R94). -/
def toLower (c : Nat) : Nat := if isUpper c then c + 32 else c

/-- A byte of a name or a number: a letter, a digit, `_`, or the dot of `.word`. -/
def isWordByte (c : Nat) : Bool := isUpper c || isLower c || isDigit c || decide (c = 95 ∨ c = 46)

/-- The value of a digit in base 16 (or 10); none where the byte is no digit of the base. -/
def digitValue (base c : Nat) : Option Nat :=
  let v := if isDigit c then c - 48 else if isLower c then c - 87 else if isUpper c then c - 55 else base
  if v < base then some v else none

/-- The value of a sequence of digits, the most significant first; none where it is empty or holds no digit. -/
def digitsValue (base : Nat) : List Nat → Option Nat
  | [] => none
  | c :: cs => (c :: cs).foldl (fun acc c => acc.bind fun n => (digitValue base c).map fun v => n * base + v) (some 0)

/-- A word of the line: a number where it begins with a digit, a name otherwise. -/
def wordToken (w : List Nat) : Option Token :=
  match w with
  | 48 :: 120 :: digits => (digitsValue 16 digits).map .number
  | c :: cs => if isDigit c then (digitsValue 10 (c :: cs)).map .number else some (.name ((c :: cs).map toLower))
  | [] => none

/-- What one byte between two pieces does: the piece it is, if any, and where the reader then stands. None where the
byte can begin no piece. -/
def betweenByte (c : Nat) : Option (List Token × Reading) :=
  if c = 32 ∨ c = 9 ∨ c = 13 then some ([], .between)
  else if c = 44 then some ([.comma], .between)
  else if c = 34 then some ([], .inText [])
  else if isWordByte c then some ([], .inWord [c])
  else none

/-- The pieces of a line, from where the reader stands. -/
def tokensFrom : Reading → List Nat → Option (List Token)
  | .between, [] => some []
  | .inWord back, [] => (wordToken back.reverse).map fun t => [t]
  | .inText _, [] => none
  | .between, c :: cs =>
    if c = 59 then some []
    else (betweenByte c).bind fun p => (tokensFrom p.2 cs).map fun ts => p.1 ++ ts
  | .inWord back, c :: cs =>
    if isWordByte c then tokensFrom (.inWord (c :: back)) cs
    else (wordToken back.reverse).bind fun t =>
      if c = 59 then some [t]
      else (betweenByte c).bind fun p => (tokensFrom p.2 cs).map fun ts => t :: p.1 ++ ts
  | .inText back, c :: cs =>
    if c = 34 then (tokensFrom .between cs).map fun ts => .text back.reverse :: ts
    else tokensFrom (.inText (c :: back)) cs

/-- The operands of a line, which commas part. -/
def operands : List Token → Option (List Token)
  | [] => some []
  | [.number n] => some [.number n]
  | [.text m] => some [.text m]
  | [.name c] => some [.name c]
  | t :: .comma :: u :: rest => if t = .comma then none else (operands (u :: rest)).map fun ts => t :: ts
  | _ => none

/-- The control-register names of `rdcsr` (R94). -/
def csrNumber (c : List Nat) : Option Nat :=
  if c = ascii ['s', 't', 'a', 't', 'u', 's'] then some 0
  else if c = ascii ['c', 'f', 'g', '_', 'r'] then some 1
  else if c = ascii ['c', 'f', 'g', '_', 'b'] then some 2
  else if c = ascii ['c', 'f', 'g', '_', 'h'] then some 3
  else none

/-- The numbers of `absorbs 0x.., 0x.., …`; none where an operand is no number. -/
def allNumbers : List Token → Option (List Nat)
  | [] => some []
  | .number n :: rest => (allNumbers rest).map fun ns => n :: ns
  | _ :: _ => none

/-- The statement of a mnemonic and its operands (R94 to R96). -/
def statementOf (name : List Nat) (ops : List Token) : Option AsmStmt :=
  if name = ascii ['n', 'o', 'p'] then
    match ops with | [] => some (.line .nop) | _ => none
  else if name = ascii ['i', 'n', 'i', 't'] then
    match ops with | [.number r, .number b, .number h] => some (.line (.init r b h)) | _ => none
  else if name = ascii ['a', 'b', 's', 'o', 'r', 'b'] then
    match ops with | [.number d] => some (.line (.absorb d)) | _ => none
  else if name = ascii ['f', 'i', 'n', 'a', 'l'] then
    match ops with | [] => some (.line .final) | _ => none
  else if name = ascii ['p', 'e', 'r', 'm'] then
    match ops with | [.number n] => some (.line (.perm n)) | _ => none
  else if name = ascii ['r', 'd', 's', 't', 'a', 't', 'e'] then
    match ops with | [.number i] => some (.line (.rdstate i)) | _ => none
  else if name = ascii ['w', 'r', 's', 't', 'a', 't', 'e'] then
    match ops with | [.number i, .number v] => some (.line (.wrstate i v)) | _ => none
  else if name = ascii ['r', 'd', 'd', 'i', 'g', 'e', 's', 't'] then
    match ops with | [.number k] => some (.line (.rddigest k)) | _ => none
  else if name = ascii ['r', 'd', 'c', 's', 'r'] then
    match ops with
    | [.number c] => some (.line (.rdcsr c))
    | [.name c] => (csrNumber c).map fun n => .line (.rdcsr n)
    | _ => none
  else if name = ascii ['.', 'w', 'o', 'r', 'd'] then
    match ops with | [.number c, .number o] => some (.line (.word c o)) | _ => none
  else if name = ascii ['r', 'd', 's', 't', 'a', 't', 'u', 's'] then
    match ops with | [] => some .rdstatus | _ => none
  else if name = ascii ['a', 'b', 's', 'o', 'r', 'b', 's'] then
    match ops with | [.text m] => some (.absorbs m) | [] => none | _ => (allNumbers ops).map .absorbs
  else if name = ascii ['i', 'v'] then
    match ops with | [.number r, .number b, .number h] => some (.iv r b h) | _ => none
  else if name = ascii ['h', 'a', 's', 'h'] then
    match ops with | [.number r, .number b, .number h, .text m] => some (.hash r b h m) | _ => none
  else if name = ascii ['h', 'a', 's', 'h', '2', '5', '6'] then
    match ops with | [.number r, .number b, .text m] => some (.hash256 r b m) | _ => none
  else if name = ascii ['h', 'a', 's', 'h', '5', '1', '2'] then
    match ops with | [.number r, .number b, .text m] => some (.hash512 r b m) | _ => none
  else none

/-- The statement of a line: `some none` for a line that holds none (blank, or a comment), `none` for a line the
assembler refuses. -/
def parseLine (line : List Nat) : Option (Option AsmStmt) :=
  (tokensFrom .between line).bind fun ts =>
    match ts with
    | [] => some none
    | .name n :: rest => (operands rest).bind fun ops => (statementOf n ops).map some
    | _ => none

end Sys2Proof.Machine
end

