-- ==== Sys2Proof/Machine/Assembler.lean ====
section
/-! DEFINITION. The host's assembler (spec/30_encoding.md R94 to R96): the words of a line, the lines of a
pseudo-instruction. -/

namespace Sys2Proof.Machine

/-- A pair of words from two numbers that fit. -/
def pairOf (cmd opd : Nat) : Command := ⟨BitVec.ofNat 32 cmd, BitVec.ofNat 32 opd⟩

/-- The table of R94, and the raw pair of R95. -/
def lineWords : AsmLine → Command
  | .nop => pairOf 0x00000000 0
  | .init r b h => pairOf (h <<< 12 ||| b <<< 4 ||| 0x1) r
  | .absorb d => pairOf (d <<< 4 ||| 0x2) 0
  | .final => pairOf 0x00000003 0
  | .perm n => pairOf 0x00000004 n
  | .rdstate i => pairOf (i <<< 4 ||| 0x5) 0
  | .wrstate i v => pairOf (i <<< 4 ||| 0x6) v
  | .rddigest k => pairOf (k <<< 4 ||| 0x7) 0
  | .rdcsr c => pairOf (c <<< 4 ||| 0x8) 0
  | .word cmd opd => pairOf cmd opd

/-- The assembler on one line (R94): none where a field value does not fit. -/
def assembleLine (l : AsmLine) : Option Command := if l.wellFormed then some (lineWords l) else none

/-- The expansion of a pseudo-instruction (R96). DESIGN CHOICE (log entry 16): for an h that is not a multiple of 8, which
INIT rejects, R96 does not say how many `rddigest` lines there are; h/8 is rounded down. -/
def expand : AsmStmt → List AsmLine
  | .line l => [l]
  | .rdstatus => [.rdcsr 0]
  | .absorbs m => m.map .absorb
  | .iv r b h => .init r b h :: (List.range 32).map .rdstate
  | .hash r b h m => .init r b h :: m.map .absorb ++ .final :: (List.range (h / 8)).map .rddigest
  | .hash256 r b m => .init r b 256 :: m.map .absorb ++ .final :: (List.range (256 / 8)).map .rddigest
  | .hash512 r b m => .init r b 512 :: m.map .absorb ++ .final :: (List.range (512 / 8)).map .rddigest

/-- The commands of a statement; none where the assembler refuses one of its lines. -/
def assemble (a : AsmStmt) : Option (List Command) := (expand a).mapM assembleLine

end Sys2Proof.Machine
end

