-- ==== Sys2Proof/Machine/Work.lean ====
section
/-! DEFINITION. The work of a command in rounds (spec/70_reset_and_hazards.md R296) and the OPEN parameter CMD_LATENCY
(R297). No meaning of a command reads either; the ports (Clocked.lean) read the second. -/

namespace Sys2Proof.Machine

/-- The phases in which a command is permitted: the table of spec/60_exceptions.md R264. -/
def permitted : Instr → Phase → Bool
  | .nop, _ => true
  | .init _ _ _, _ => true
  | .absorb _, p => p = .inited ∨ p = .absorbing
  | .final, p => p = .inited ∨ p = .absorbing
  | .perm _, p => p = .inited ∨ p = .absorbing
  | .rdstate _, p => p = .inited ∨ p = .absorbing ∨ p = .output
  | .wrstate _ _, p => p = .inited ∨ p = .absorbing
  | .rddigest _, p => p = .output
  | .rdcsr _, _ => true

/-- The rounds a command takes in a state (R296); 0 where it is rejected. -/
def workRounds (i : Instr) (s : State) : Nat :=
  match i with
  | .nop => 0
  | .init b h r => if configError r b h = none then 10 * r.toNat else 0
  | .absorb _ => if permitted i s.phase ∧ s.bcount.toNat + 1 = s.cfgB.toNat then s.cfgR.toNat else 0
  | .final => if permitted i s.phase then 11 * s.cfgR.toNat else 0
  | .perm n => if permitted i s.phase then n.toNat else 0
  | .rdstate _ => 0
  | .wrstate _ _ => 0
  | .rddigest _ => 0
  | .rdcsr _ => 0

/-- The rounds of a sequence of instructions. -/
def workAll : List Instr → State → Nat
  | [], _ => 0
  | i :: rest, s =>
    workRounds i s +
      match exec i s with
      | .next t => workAll rest t
      | .fault _ => 0
      | .refused _ => 0

/-- The rounds of a command as it crosses the port: none where it does not decode (R296). -/
def commandRounds (c : Command) (s : State) : Nat :=
  match decode c with
  | .ok i => workRounds i s
  | .error _ => 0

/-- CMD_LATENCY (R80, R297): at least 1, possibly depending on the command and its round count; OPEN otherwise (log
entry 8). -/
def cmdLatency (c : Command) (s : State) : Nat :=
  1 + Config.latencyBeyondOne (opcode c.cmd).toNat (commandRounds c s)

end Sys2Proof.Machine
end

