-- ==== Sys2Proof/Machine/Clocked.lean ====
section
/-! DEFINITION. The ports of spec/30_encoding.md R80, one rising edge of clk at a time: the handshake that `step` abstracts
into one atomic step per transferred command (spec/00_scope.md R10). Beside `step`, and built on the same commands. -/

namespace Sys2Proof.Machine

/-- The input ports at a rising edge of clk (R80). -/
structure PortInputs where
  rst : Bool
  cmdValid : Bool
  cmd : Word
  opd : Word
deriving DecidableEq, Repr

/-- The command offered at an edge. -/
def PortInputs.command (p : PortInputs) : Command := ⟨p.cmd, p.opd⟩

/-- The command in progress (R80), and the edges left before the one that ends it. -/
structure InFlight where
  command : Command
  left : Nat
deriving DecidableEq, Repr

/-- The block with its handshake: its state, and the command in progress, at most one (R80). -/
structure Clocked where
  core : State
  inFlight : Option InFlight
deriving DecidableEq, Repr

/-- The port cmd_ready (R80): 0 from a transfer to its response. -/
def Clocked.ready (m : Clocked) : Bool := m.inFlight.isNone

/-- The block after a command of it has ended. -/
def endCommand : Host.Outcome State Fault Refusal → Host.Outcome Clocked Fault Refusal
  | .next t => .next ⟨t, none⟩
  | .fault f => .fault f
  | .refused r => .refused r

/-- One rising edge of clk. Reset comes first and aborts a command in progress (R290, R291). With no command in progress,
one that is offered transfers, with cmd and opd as sampled (R80, R295). The reads and writes of a command take effect
together at its end (R66), CMD_LATENCY edges after its transfer (log entry 6). -/
def edge (p : PortInputs) (m : Clocked) : Host.Outcome Clocked Fault Refusal :=
  if p.rst then .next ⟨applyReset m.core, none⟩
  else
    match m.inFlight with
    | none =>
      if p.cmdValid then .next ⟨idle m.core, some ⟨p.command, cmdLatency p.command m.core - 1⟩⟩
      else .next ⟨idle m.core, none⟩
    | some ⟨c, 0⟩ => endCommand (issue c m.core)
    | some ⟨c, n + 1⟩ => .next ⟨m.core, some ⟨c, n⟩⟩

/-- The edges of a list of port inputs, in order, to the first stop. -/
def edges : List PortInputs → Clocked → Host.Outcome Clocked Fault Refusal
  | [], m => .next m
  | p :: rest, m =>
    match edge p m with
    | .next u => edges rest u
    | .fault f => .fault f
    | .refused r => .refused r

end Sys2Proof.Machine
end

