-- ==== Sys2Proof/Machine/Pipeline.lean ====
section
/-! DEFINITION. The source's pipeline as the spec states it, apart from the block: the padding of spec/42_absorb.md R161, the
blocks' words of R162, the IV of spec/41_iv_generator.md R140 and R141, the finalization of spec/43_finalize.md R192
and R193, and the digest of spec/44_output.md R210. It is written from those rules and shares with the block's meanings
only the round; R165 and R214 say that the block computes it. -/

namespace Sys2Proof.Machine.Pipeline

/-- The legal parameters (R2, R35 to R37). -/
def Legal (r b h : Nat) : Prop :=
  1 ≤ r ∧ r < 2 ^ 32 ∧ 1 ≤ b ∧ b ≤ 128 ∧ 8 ≤ h ∧ h ≤ 512 ∧ h % 8 = 0

/-- z of R161 in closed form: (-(L + 1)) mod b. -/
def padZeros (len b : Nat) : Nat := (b - (len + 1) % b) % b

/-- P = m || 0x80 || 0x00 × z (R161). -/
def pad (m : List Byte) (b : Nat) : List Byte :=
  m ++ 0x80 :: List.replicate (padZeros m.length b) 0

/-- The blocks of a padded message: its consecutive b-byte slices (R162, R165). -/
def blocks (p : List Byte) (b : Nat) : List (List Byte) :=
  (List.range (p.length / b)).map fun k => (p.drop (k * b)).take b

/-- zext_32(B[i]), and 0 where the block has no byte i (R162). -/
def byteAt (block : List Byte) (i : Nat) : Word := ((block[i]?).getD 0).setWidth 32

/-- W[j] of R162: the sum of its bytes, each at its place. -/
def wordOf (block : List Byte) (j : Nat) : Word :=
  byteAt block (4 * j) + (byteAt block (4 * j + 1) <<< 8) + (byteAt block (4 * j + 2) <<< 16) +
    (byteAt block (4 * j + 3) <<< 24)

/-- One block absorbed (R162, R163): a word past the block's last byte is 0 and changes nothing. -/
def absorbOne (r : Nat) (x : Words) (block : List Byte) : Words :=
  transform r (Vector.ofFn fun j => x[j] ^^^ wordOf block j.val)

/-- The IV of (r, b, h) (R140, R141): 10·r rounds from the seed [h/8, b, r, 0, …, 0]. -/
def iv (r b h : Nat) : Words :=
  transform (10 * r) (Vector.ofFn fun i => BitVec.ofNat 32 (([h / 8, b, r][i.val]?).getD 0))

/-- The state after the message's blocks are absorbed (R165). -/
def absorbAll (r b h : Nat) (bs : List (List Byte)) : Words := bs.foldl (absorbOne r) (iv r b h)

/-- The final state (R192, R193): bit 0 of X[31] flipped, then 10·r rounds. -/
def finalState (r b h : Nat) (m : List Byte) : Words :=
  let x := absorbAll r b h (blocks (pad m b) b)
  transform (10 * r) (Vector.ofFn fun j => if j.val = 31 then x[j] ^^^ 1 else x[j])

/-- The four bytes of a word, in little-endian order (R62, R210). -/
def wordBytes (w : Word) : List Byte :=
  [w.extractLsb' 0 8, w.extractLsb' 8 8, w.extractLsb' 16 8, w.extractLsb' 24 8]

/-- The digest (R210): the first h/8 bytes of the little-endian serialisation of the final state. -/
def hash (r b h : Nat) (m : List Byte) : List Byte :=
  ((finalState r b h m).toList.flatMap wordBytes).take (h / 8)

end Sys2Proof.Machine.Pipeline
end

