-- ==== Sys2Proof/Machine/Rendering.lean ====
section
/-! DEFINITION. How the host reads what the block delivers (spec/00_scope.md R12, R13); outside the block. -/

namespace Sys2Proof.Machine

/-- The two's-complement reading of a word (R12). -/
def signedReading (w : Word) : Int := if w.toNat < 2 ^ 31 then w.toNat else w.toNat - 2 ^ 32

/-- A lowercase hexadecimal digit. -/
def hexDigit (n : BitVec 4) : Char := Char.ofNat (if n.toNat < 10 then 48 + n.toNat else 87 + n.toNat)

/-- A digest as the host renders it (R13): of each byte the digit of bits 7:4, then that of bits 3:0. -/
def renderHex (digest : List Byte) : List Char :=
  digest.flatMap fun d => [hexDigit (d.extractLsb' 4 4), hexDigit (d.extractLsb' 0 4)]

end Sys2Proof.Machine
end

