-- ==== Sys2Proof/Machine/Run.lean ====
section
/-! DEFINITION. Runs of the block (spec/00_scope.md R10) and how a host issues the expansion of a pseudo-instruction
(spec/30_encoding.md R96). -/

namespace Sys2Proof.Machine

/-- The instructions carried out one after the other (R69), to the first stop. -/
def execAll : List Instr → State → Host.Outcome State Fault Refusal
  | [], s => .next s
  | i :: rest, s =>
    match exec i s with
    | .next t => execAll rest t
    | .fault f => .fault f
    | .refused r => .refused r

/-- The observation of a run (R10): the responses of a sequence of commands, with the state after it. None where the
model stops. -/
def observe : List Command → State → Option (List Response × State)
  | [], s => some ([], s)
  | c :: rest, s =>
    match issue c s with
    | .next t => (observe rest t).map fun p => (t.response :: p.1, p.2)
    | .fault _ => none
    | .refused _ => none

/-- The response of each of the next `n` steps, with the state after them. None where the model stops. -/
def observeSteps : Nat → State → Option (List Response × State)
  | 0, s => some ([], s)
  | n + 1, s =>
    match step s with
    | .next t => (observeSteps n t).map fun p => (t.response :: p.1, p.2)
    | .fault _ => none
    | .refused _ => none

/-- A host that stops at the first response with rsp_ok = 0 (R96). -/
def hostRun : List Command → State → Option (List Response × State)
  | [], s => some ([], s)
  | c :: rest, s =>
    match issue c s with
    | .next t => if t.rspOk then (hostRun rest t).map fun p => (t.response :: p.1, p.2) else some ([t.response], t)
    | .fault _ => none
    | .refused _ => none

end Sys2Proof.Machine
end

