-- ==== Sys2Proof/Safety.lean ====
section
/-! DEFINITION. What a safe state of the block is, and what the host can tell apart: the terms the statements are made
in. -/

namespace Sys2Proof.Machine

/-- The parameters of an accepted INIT (R35, R36, R37). -/
abbrev State.CfgLegal (s : State) : Prop :=
  1 ≤ s.cfgR.toNat ∧ 1 ≤ s.cfgB.toNat ∧ s.cfgB.toNat ≤ 128 ∧ 8 ≤ s.cfgH.toNat ∧ s.cfgH.toNat ≤ 512 ∧
    s.cfgH.toNat % 8 = 0

/-- The parameter registers hold legal parameters, or are as reset leaves them and no INIT has been accepted since
(R35, R36, R37, R290). -/
abbrev State.ParamsOk (s : State) : Prop :=
  s.CfgLegal ∨ (s.phase = .uninit ∧ s.cfgR = 0 ∧ s.cfgB = 0 ∧ s.cfgH = 0)

/-- BCOUNT (R39): 0 in INITED and OUTPUT, below CFG_B in ABSORBING; in UNINIT it may keep what it was in ABSORBING. -/
abbrev State.CountOk (s : State) : Prop :=
  s.bcount = 0 ∨ ((s.phase = .absorbing ∨ s.phase = .uninit) ∧ s.bcount.toNat < s.cfgB.toNat)

/-- ERR holds no reserved code (R261). -/
abbrev State.ErrOk (s : State) : Prop := s.err.toNat ≤ 7

/-- A rejection's response is STATUS, with a code in it (R93, R266). -/
abbrev State.ResponseOk (s : State) : Prop :=
  s.rspValid = true → s.rspOk = false → s.rspData = s.status ∧ s.err ≠ 0

/-- The invariant of the block. -/
abbrev State.Inv (s : State) : Prop := s.ParamsOk ∧ s.CountOk ∧ s.ErrOk ∧ s.ResponseOk

/-- Two states no command's response can tell apart: they agree on every register but those the spec calls
unobservable. X counts where PHASE is not UNINIT (R32), BUF below BCOUNT and in the phases that take bytes (R38), the
response ports while they signal a response (R290), and the model's own counter of resets not at all. -/
structure SameToHost (s t : State) : Prop where
  stream : s.stream = t.stream
  phase : s.phase = t.phase
  cfgR : s.cfgR = t.cfgR
  cfgB : s.cfgB = t.cfgB
  cfgH : s.cfgH = t.cfgH
  bcount : s.bcount = t.bcount
  err : s.err = t.err
  rspValid : s.rspValid = t.rspValid
  response : s.rspValid = true → s.response = t.response
  words : s.phase ≠ .uninit → s.x = t.x
  bytes : s.phase.isOpen = true → ∀ j : Fin 128, j.val < s.bcount.toNat → s.buf[j] = t.buf[j]

/-- Two outcomes the host cannot tell apart. -/
def SameOutcome : Host.Outcome State Fault Refusal → Host.Outcome State Fault Refusal → Prop
  | .next s, .next t => SameToHost s t
  | .fault a, .fault b => a = b
  | .refused a, .refused b => a = b
  | .next _, .fault _ => False
  | .next _, .refused _ => False
  | .fault _, .next _ => False
  | .fault _, .refused _ => False
  | .refused _, .next _ => False
  | .refused _, .fault _ => False

/-- A word with opcode `op` that has a 1 at bit `lo` or above is rejected with RESERVED, in every state (R88). -/
def RejectsReserved (op lo : Nat) : Prop :=
  ∀ (c : Command) (s : State), c.cmd.toNat % 16 = op → c.cmd.toNat / 2 ^ lo ≠ 0 →
    issue c s = .next (reject .reserved s)

/-- Everything but X, BUF, BCOUNT, PHASE, ERR and the response is as before: what no command but INIT writes. -/
def SameParams (s t : State) : Prop :=
  t.cfgR = s.cfgR ∧ t.cfgB = s.cfgB ∧ t.cfgH = s.cfgH ∧ t.stream = s.stream ∧ t.draws = s.draws

end Sys2Proof.Machine
end

