-- ==== Sys2Proof/Certificates/Slice0/Obligations.lean ====
section
/-! DEFINITION. The statements about the block, each formalising numbered rules of the spec. -/

open Sys2Proof Sys2Proof.Machine

/-! ## Words and the round (spec/00_scope.md, spec/40_state_transform.md) -/

/-- R8: `rotl(v, k)` is the 32-bit circular left rotation, for 0 < k < 32, and the two rotations of a round are 7 and 11. -/
def Obligations.RotlIsCircularRotation : Prop :=
  (∀ (v : Word) (k : Nat), 0 < k → k < 32 →
    rotl v k = (v <<< k) ||| (v >>> (32 - k)) ∧ rotl v k = v.rotateLeft k ∧
      ∀ j, j < 32 → (rotl v k).getLsbD ((j + k) % 32) = v.getLsbD j) ∧
  Config.rotA = 7 ∧ Config.rotB = 11

/-- R110, R111, R112: the loops of R110, from any content of the temporary y, compute the closed form of R112, and so does
the model's round. -/
def Obligations.RoundIsTheClosedForm : Prop :=
  ∀ (y : Half) (x : Words),
    roundLoops y x = oneRound x ∧
    ∀ i : Fin 16,
      let lo (i : Fin 16) : Word := x[i.val]
      let hi (i : Fin 16) : Word := x[16 + i.val]
      let h1 (i : Fin 16) : Word := hi i + lo i
      let l2 (i : Fin 16) : Word := rotl (lo (i ^^^ 8)) 7 ^^^ h1 i
      let h2 (i : Fin 16) : Word := h1 (i ^^^ 2) + l2 i
      (oneRound x)[i.val] = rotl (l2 (i ^^^ 4)) 11 ^^^ h2 i ∧ (oneRound x)[16 + i.val] = h2 (i ^^^ 1)

/-- R113: T(n) is n rounds in succession, T(0) leaves X unchanged, and T(m) followed by T(n) is T(m + n). -/
def Obligations.TransformComposes : Prop :=
  (∀ x, transform 0 x = x) ∧
  (∀ n x, transform (n + 1) x = oneRound (transform n x)) ∧
  (∀ m n x, transform (m + n) x = transform n (transform m x))

/-- R117: one round from X[0] = 1, every other word 0. -/
def Obligations.RoundOfUnit : Prop :=
  oneRound (#v[1, 0, 0, 0, 0, 0, 0, 0, 0, 0, 0, 0, 0, 0, 0, 0, 0, 0, 0, 0, 0, 0, 0, 0, 0, 0, 0, 0, 0, 0, 0, 0] : Words) =
    #v[0x00000001, 0, 0x00000001, 0, 0x00000800, 0, 0, 0, 0x00000080, 0, 0, 0, 0x00040000, 0, 0, 0,
      0, 0x00000001, 0, 0x00000001, 0, 0, 0, 0, 0, 0x00000080, 0, 0, 0, 0, 0, 0]

/-! ## State and status (spec/10_state.md) -/

/-- R41: the fields of STATUS, and its value after reset; RDCSR 0 reads it, and it is the response of every accepted command
that reads nothing and of every rejection. -/
def Obligations.StatusLayout : Prop :=
  (∀ s : State,
    s.status.extractLsb' 0 2 = s.phase.code ∧ s.status.extractLsb' 2 2 = 0 ∧
    s.status.extractLsb' 4 4 = s.err ∧ s.status.extractLsb' 8 8 = s.bcount ∧ s.status.extractLsb' 16 16 = 0) ∧
  State.reset.status = 0x00000000 ∧ (∀ s, (applyReset s).status = 0x00000000) ∧
  (∀ s, exec (.rdcsr 0) s = .next { s with rspValid := true, rspOk := true, rspData := s.status }) ∧
  (∀ c s t, issue c s = .next t → t.rspOk = false → t.rspData = t.status) ∧
  (∀ i s t, exec i s = .next t → (∀ j, i ≠ .rdstate j) → (∀ k, i ≠ .rddigest k) → (∀ c, i ≠ .rdcsr c) →
    t.rspData = t.status)

/-- R33, R261: the value each phase has in PHASE and each reason of rejection in ERR. -/
def Obligations.CodesOfPhaseAndErr : Prop :=
  (Phase.code .uninit = 0 ∧ Phase.code .inited = 1 ∧ Phase.code .absorbing = 2 ∧ Phase.code .output = 3) ∧
  (RejectCode.code .badR = 1 ∧ RejectCode.code .badB = 2 ∧ RejectCode.code .badH = 3 ∧ RejectCode.code .illegal = 4 ∧
    RejectCode.code .reserved = 5 ∧ RejectCode.code .phase = 6 ∧ RejectCode.code .index = 7) ∧
  (∀ code : RejectCode, code.code ≠ 0 ∧ code.code.toNat < 8)

/-- R34: the only changes of PHASE a command makes. An accepted INIT leaves INITED, an accepted ABSORB comes from INITED or
ABSORBING and leaves ABSORBING, an accepted FINAL comes from those two and leaves OUTPUT, an INIT rejected by a
configuration error leaves UNINIT, and everything else leaves PHASE as it was; reset leaves UNINIT. -/
def Obligations.PhaseTransitions : Prop :=
  (∀ b h r s t, exec (.init b h r) s = .next t →
    (t.rspOk = true ∧ t.phase = .inited) ∨
    (t.rspOk = false ∧ t.phase = .uninit ∧ (t.err = 1 ∨ t.err = 2 ∨ t.err = 3))) ∧
  (∀ d s t, exec (.absorb d) s = .next t →
    (t.rspOk = true ∧ (s.phase = .inited ∨ s.phase = .absorbing) ∧ t.phase = .absorbing) ∨
    (t.rspOk = false ∧ t.phase = s.phase)) ∧
  (∀ s t, exec .final s = .next t →
    (t.rspOk = true ∧ (s.phase = .inited ∨ s.phase = .absorbing) ∧ t.phase = .output) ∨
    (t.rspOk = false ∧ t.phase = s.phase)) ∧
  (∀ i s t, exec i s = .next t → (∀ b h r, i ≠ .init b h r) → (∀ d, i ≠ .absorb d) → i ≠ .final →
    t.phase = s.phase) ∧
  (∀ c e s t, decode c = .error e → issue c s = .next t → t.phase = s.phase) ∧
  (∀ s, (applyReset s).phase = .uninit)

/-- R40: a rejection writes ERR with its code, an accepted INIT writes 0, no other command writes it, and reset leaves
0. -/
def Obligations.ErrIsWrittenByRejectionAndInit : Prop :=
  (∀ c s t, issue c s = .next t →
    (∃ code : RejectCode, t = reject code s ∧ t.rspOk = false ∧ t.err = code.code) ∨
    (t.rspOk = true ∧ t.err = (match decode c with | .ok (.init _ _ _) => 0 | _ => s.err))) ∧
  (∀ s, (applyReset s).err = 0) ∧ State.reset.err = 0

/-- R31: which commands write X. NOP, RDCSR, RDSTATE and RDDIGEST do not; an ABSORB that completes no block does not;
WRSTATE writes one word. -/
def Obligations.WhichCommandsWriteWords : Prop :=
  (∀ s t, exec .nop s = .next t → t.x = s.x) ∧
  (∀ c s t, exec (.rdcsr c) s = .next t → t.x = s.x) ∧
  (∀ i s t, exec (.rdstate i) s = .next t → t.x = s.x) ∧
  (∀ k s t, exec (.rddigest k) s = .next t → t.x = s.x) ∧
  (∀ d s t, exec (.absorb d) s = .next t → s.bcount + 1 ≠ s.cfgB → t.x = s.x) ∧
  (∀ i v s t, exec (.wrstate i v) s = .next t → ∀ j : Fin 32, j.val ≠ i.toNat → t.x[j] = s.x[j]) ∧
  (∀ i s t, exec i s = .next t → t.rspOk = false → t.x = s.x)

/-! ## Encoding (spec/30_encoding.md) -/

/-- Every instruction is well formed, and the decoder reads it back from its words, whatever opd holds where the command
ignores opd (R90). -/
def Obligations.DecodeOfEncode : Prop :=
  ∀ (i : Instr) (opd : Word), i.wellFormed = true ∧
    ((i.usesOpd = true → opd = (encode i).opd) → decode ⟨(encode i).cmd, opd⟩ = .ok i)

/-- A legal command word has one meaning: the instruction the decoder reads is encoded by that very word, and by that
operand where it uses one. -/
def Obligations.EncodeOfDecode : Prop :=
  ∀ (c : Command) (i : Instr), decode c = .ok i →
    (encode i).cmd = c.cmd ∧ (i.usesOpd = true → (encode i).opd = c.opd) ∧
      (i.usesOpd = false → (encode i).opd = 0)

/-- R89: every command word is exactly one of a legal command, an illegal opcode or a reserved-bit violation, with the
masks of R89's table. -/
def Obligations.DecodeIsTotal : Prop :=
  ∀ c : Command,
    let masks : List Word := [0xFFFFFFF0, 0xFFC00000, 0xFFFFF000, 0xFFFFFFF0, 0xFFFFFFF0, 0xFFFFFE00, 0xFFFFFE00,
      0xFFFFF800, 0xFFFFF000]
    match masks[c.cmd.toNat % 16]? with
    | none => decode c = .error .illegal
    | some mask =>
      (c.cmd &&& mask ≠ 0 → decode c = .error .reserved) ∧
      (c.cmd &&& mask = 0 → ∃ i, decode c = .ok i ∧ (encode i).cmd.toNat % 16 = c.cmd.toNat % 16)

/-- R91: the worked encodings, read by the decoder and written by the encoder. -/
def Obligations.WorkedEncodings : Prop :=
  ∀ v n : Word,
    (encode (.init 1 256 8) = ⟨0x00100011, 0x00000008⟩ ∧ decode ⟨0x00100011, 0x00000008⟩ = .ok (.init 1 256 8)) ∧
    (encode (.init 32 256 16) = ⟨0x00100201, 0x00000010⟩ ∧ decode ⟨0x00100201, 0x00000010⟩ = .ok (.init 32 256 16)) ∧
    (encode (.init 1 512 8) = ⟨0x00200011, 0x00000008⟩ ∧ decode ⟨0x00200011, 0x00000008⟩ = .ok (.init 1 512 8)) ∧
    ((encode (.absorb 0x48)).cmd = 0x00000482 ∧ decode ⟨0x00000482, v⟩ = .ok (.absorb 0x48)) ∧
    ((encode .final).cmd = 0x00000003 ∧ decode ⟨0x00000003, v⟩ = .ok .final) ∧
    ((encode (.rddigest 31)).cmd = 0x000001F7 ∧ decode ⟨0x000001F7, v⟩ = .ok (.rddigest 31)) ∧
    ((encode (.rdstate 16)).cmd = 0x00000105 ∧ decode ⟨0x00000105, v⟩ = .ok (.rdstate 16)) ∧
    (encode (.wrstate 31 v) = ⟨0x000001F6, v⟩ ∧ decode ⟨0x000001F6, v⟩ = .ok (.wrstate 31 v)) ∧
    ((encode (.rdcsr 3)).cmd = 0x00000038 ∧ decode ⟨0x00000038, v⟩ = .ok (.rdcsr 3)) ∧
    (encode (.perm n) = ⟨0x00000004, n⟩ ∧ decode ⟨0x00000004, n⟩ = .ok (.perm n))

/-- The assembler (R94, R95): a command's line gives the command's words, with opd 0 where none is written; a line with a
value that does not fit is refused, and every line whose values fit is encoded; the raw line `.word cmd, opd` gives that
very pair, legal or not, where both are below 2^32, and is refused otherwise. -/
def Obligations.AssemblerEncodes : Prop :=
  (∀ i : Instr, assembleLine i.toAsm = some (encode i)) ∧
  (∀ l : AsmLine, l.wellFormed = true → ∃ c, assembleLine l = some c) ∧
  (∀ l : AsmLine, l.wellFormed = false → assembleLine l = none) ∧
  (∀ l : AsmLine, l.wellFormed = true → (∀ c o, l ≠ .word c o) → ∃ i : Instr, i.toAsm = l) ∧
  (∀ c o : Nat, c < 2 ^ 32 → o < 2 ^ 32 →
    ∃ w, assembleLine (.word c o) = some w ∧ w.cmd.toNat = c ∧ w.opd.toNat = o) ∧
  (∀ c o : Nat, (2 ^ 32 ≤ c ∨ 2 ^ 32 ≤ o) → assembleLine (.word c o) = none)

/-! ## A step (spec/00_scope.md R10) -/

/-- A step takes the next input of the stream (R10). A command that decodes is carried out as its instruction, one that does
not is rejected, a reset resets (R290), and so does a reset during a command (R291). Three things here are the model's
choices, not the spec's: the host's inputs stand in State as a stream, `withFetchWord` puts one at its head, and a reset
during a command is one input (log entries 5 and 15, DESIGN CHOICE); an idle step lowers rsp_valid (log entry 6, DEDUCED);
`commandOfBits` numbers the bits of cmd and opd (log entry 13, DESIGN CHOICE). -/
def Obligations.StepRunsTheDecodedInstruction : Prop :=
  (∀ s c rest i, s.stream = .command c :: rest → decode c = .ok i → step s = exec i { s with stream := rest }) ∧
  (∀ s c rest e, s.stream = .command c :: rest → decode c = .error e →
    step s = .next (reject (decodeReject e) { s with stream := rest })) ∧
  (∀ s rest, s.stream = .reset :: rest → step s = .next (applyReset { s with stream := rest })) ∧
  (∀ s c rest, s.stream = .resetDuring c :: rest → step s = .next (applyReset { s with stream := rest })) ∧
  (∀ s, s.stream = [] → step s = .next { s with rspValid := false }) ∧
  (∀ (s : State) nbits w, step (s.withFetchWord nbits w) = issue (commandOfBits nbits w) s)

/-- R69, R10: the commands of the stream are carried out one by one in their order, each on the state the earlier ones left
and none looking at a later one, and the responses of the steps are those of the run. -/
def Obligations.StepsFollowTheCommandStream : Prop :=
  ∀ (cs : List Command) (rest : List HostInput) (s : State),
    observeSteps cs.length { s with stream := cs.map .command ++ rest } = observe cs { s with stream := rest }

/-- R80, R291, at the ports: a command that transfers at an edge has its response CMD_LATENCY edges later, whatever is offered
in between, with the state the command gives; until then cmd_ready is 0, no response is signalled and no effect of it is
visible. A reset at any edge leaves the state of a reset, with no command in progress and no response. When in the model the
effects and cmd_ready change is log entry 6. -/
def Obligations.CommandTakesItsLatency : Prop :=
  (∀ (m : Clocked) (p : PortInputs) (rest : List PortInputs) (t : State),
    m.inFlight = none → p.rst = false → p.cmdValid = true → (∀ q ∈ rest, q.rst = false) →
    rest.length = cmdLatency p.command m.core → issue p.command (idle m.core) = .next t →
    1 ≤ rest.length ∧ edges (p :: rest) m = .next ⟨t, none⟩ ∧
    ∀ k, k < rest.length → ∃ u, edges (p :: rest.take k) m = .next u ∧
      u.ready = false ∧ u.core = idle m.core ∧ u.core.rspValid = false) ∧
  (∀ (m : Clocked) (p : PortInputs), p.rst = true → ∃ u, edge p m = .next u ∧
    u.core = applyReset m.core ∧ u.ready = true ∧ u.core.rspValid = false)

/-- R93, R11: every command responds. A rejected one responds with STATUS after the rejection; an accepted RDSTATE,
RDDIGEST or RDCSR with the value read; every other accepted command with STATUS after the command. -/
def Obligations.ResponseOfEveryCommand : Prop :=
  ∀ (c : Command) (s t : State), issue c s = .next t →
    t.rspValid = true ∧
    (t.rspOk = false → t.rspData = t.status) ∧
    (t.rspOk = true → ∃ i, decode c = .ok i ∧
      match i with
      | .rdstate j => t.rspData = s.x[j.toNat]'j.isLt
      | .rddigest k => t.rspData = (digestByte s.x k).setWidth 32
      | .rdcsr n => readCsr s n = some t.rspData
      | .nop | .init _ _ _ | .absorb _ | .final | .perm _ | .wrstate _ _ => t.rspData = t.status)

/-! ## What each command does in full: its next state

Each conclusion is the whole next state: what is not named after `with` is as before. -/

/-- NOP (R233): in every phase, whatever opd is. -/
def Obligations.NopCompletes : Prop :=
  (∀ s : State, exec .nop s = .next { s with rspValid := true, rspOk := true, rspData := s.status }) ∧
  (∀ o s, issue ⟨0x00000000, o⟩ s = exec .nop s) ∧ RejectsReserved 0x0 4

/-- INIT (R140, R141, R142). With legal parameters, in every phase: the parameters, the IV as 10·r rounds from the seed,
BCOUNT, PHASE and ERR; the response is (1, 0x00000001); BUF is as before. With an illegal one it is rejected with BAD_R,
BAD_B or BAD_H, the first that applies in that order. -/
def Obligations.InitCompletes : Prop :=
  (∀ (b : BitVec 8) (h : BitVec 10) (r : Word) (s : State), Pipeline.Legal r.toNat b.toNat h.toNat →
    exec (.init b h r) s = .next { s with
      cfgR := r, cfgB := b, cfgH := h,
      x := transform (10 * r.toNat) (Vector.ofFn fun i =>
        if i.val = 0 then BitVec.ofNat 32 (h.toNat / 8) else if i.val = 1 then BitVec.ofNat 32 b.toNat
        else if i.val = 2 then r else 0)
      bcount := 0, phase := .inited, err := 0, rspValid := true, rspOk := true, rspData := 0x00000001 }) ∧
  (∀ (b : BitVec 8) (h : BitVec 10) (r : Word) (s : State),
    (r.toNat < 1 → exec (.init b h r) s = .next (reject .badR s)) ∧
    (1 ≤ r.toNat → (b.toNat < 1 ∨ 128 < b.toNat) → exec (.init b h r) s = .next (reject .badB s)) ∧
    (1 ≤ r.toNat → 1 ≤ b.toNat → b.toNat ≤ 128 → (h.toNat < 8 ∨ 512 < h.toNat ∨ h.toNat % 8 ≠ 0) →
      exec (.init b h r) s = .next (reject .badH s))) ∧
  (∀ (b : BitVec 8) (h : BitVec 10) (r : Word) (s : State),
    issue ⟨BitVec.ofNat 32 (h.toNat * 2 ^ 12 + b.toNat * 2 ^ 4 + 0x1), r⟩ s = exec (.init b h r) s) ∧
  RejectsReserved 0x1 22

/-- ABSORB (R164). A byte that does not complete the block enters BUF, and X is as before; with the byte that completes it,
the block, that byte included, is XORed into X, T(CFG_R) follows and BCOUNT is 0 (R163). In UNINIT and OUTPUT it is
rejected. -/
def Obligations.AbsorbCompletes : Prop :=
  (∀ (d : Byte) (s : State) (hb : s.bcount.toNat < 128),
    (s.phase = .inited ∨ s.phase = .absorbing) → s.bcount.toNat + 1 ≠ s.cfgB.toNat →
    ∃ status, exec (.absorb d) s = .next { s with
        buf := s.buf.set s.bcount.toNat d hb, bcount := s.bcount + 1, phase := .absorbing,
        rspValid := true, rspOk := true, rspData := status } ∧
      status = ((s.bcount + 1).setWidth 32 <<< 8 ||| s.err.setWidth 32 <<< 4 ||| 2#32)) ∧
  (∀ (d : Byte) (s : State) (hb : s.bcount.toNat < 128),
    (s.phase = .inited ∨ s.phase = .absorbing) → s.bcount.toNat + 1 = s.cfgB.toNat →
    ∃ status, exec (.absorb d) s = .next { s with
        buf := s.buf.set s.bcount.toNat d hb,
        x := transform s.cfgR.toNat (xorBlock s.cfgB.toNat (s.buf.set s.bcount.toNat d hb) s.x),
        bcount := 0, phase := .absorbing, rspValid := true, rspOk := true, rspData := status } ∧
      status = (s.err.setWidth 32 <<< 4 ||| 2#32)) ∧
  (∀ (d : Byte) (s : State), (s.phase = .uninit ∨ s.phase = .output) →
    exec (.absorb d) s = .next (reject .phase s)) ∧
  (∀ (d : Byte) (o : Word) (s : State), issue ⟨BitVec.ofNat 32 (d.toNat * 2 ^ 4 + 0x2), o⟩ s = exec (.absorb d) s) ∧
  RejectsReserved 0x2 12

/-- FINAL (R190 to R193): BUF[BCOUNT] is 0x80 and BUF[j] is 0 for the j above it and below CFG_B; that block is absorbed;
bit 0 of X[31] is flipped; 10·CFG_R rounds follow; BCOUNT is 0 and PHASE OUTPUT. In UNINIT and OUTPUT it is rejected. -/
def Obligations.FinalCompletes : Prop :=
  (∀ s : State, (s.phase = .inited ∨ s.phase = .absorbing) → s.bcount.toNat < 128 → s.cfgB.toNat ≤ 128 →
    ∃ buf x status, exec .final s = .next { s with
        buf := buf, x := x, bcount := 0, phase := .output, rspValid := true, rspOk := true, rspData := status } ∧
      (∀ j : Fin 128, buf[j] =
        if j.val = s.bcount.toNat then 0x80#8
        else if s.bcount.toNat < j.val ∧ j.val < s.cfgB.toNat then 0x00#8 else s.buf[j]) ∧
      (let y := transform s.cfgR.toNat (xorBlock s.cfgB.toNat buf s.x)
       x = transform (10 * s.cfgR.toNat) (Vector.ofFn fun j => if j.val = 31 then y[j] ^^^ 0x00000001#32 else y[j])) ∧
      status = (s.err.setWidth 32 <<< 4 ||| 3#32)) ∧
  (∀ s : State, (s.phase = .uninit ∨ s.phase = .output) → exec .final s = .next (reject .phase s)) ∧
  (∀ o s, issue ⟨0x00000003, o⟩ s = exec .final s) ∧ RejectsReserved 0x3 4

/-- PERM (R116): T(n), and nothing else; a partial block stays pending. In UNINIT and OUTPUT it is rejected. -/
def Obligations.PermCompletes : Prop :=
  (∀ (n : Word) (s : State), (s.phase = .inited ∨ s.phase = .absorbing) →
    exec (.perm n) s = .next { s with
      x := transform n.toNat s.x, rspValid := true, rspOk := true, rspData := s.status }) ∧
  (∀ (n : Word) (s : State), (s.phase = .uninit ∨ s.phase = .output) → exec (.perm n) s = .next (reject .phase s)) ∧
  (∀ n s, issue ⟨0x00000004, n⟩ s = exec (.perm n) s) ∧ RejectsReserved 0x4 4

/-- RDSTATE (R230): X[i], in every phase but UNINIT, where it is rejected. -/
def Obligations.RdstateCompletes : Prop :=
  (∀ (i : BitVec 5) (s : State), s.phase ≠ .uninit →
    exec (.rdstate i) s = .next { s with rspValid := true, rspOk := true, rspData := s.x[i.toNat]'i.isLt }) ∧
  (∀ (i : BitVec 5) (s : State), s.phase = .uninit → exec (.rdstate i) s = .next (reject .phase s)) ∧
  (∀ (i : BitVec 5) (o : Word) (s : State),
    issue ⟨BitVec.ofNat 32 (i.toNat * 2 ^ 4 + 0x5), o⟩ s = exec (.rdstate i) s) ∧
  RejectsReserved 0x5 9

/-- WRSTATE (R231): X[i] is the operand, and every other word is as before. In UNINIT and OUTPUT it is rejected. -/
def Obligations.WrstateCompletes : Prop :=
  (∀ (i : BitVec 5) (v : Word) (s : State), (s.phase = .inited ∨ s.phase = .absorbing) →
    exec (.wrstate i v) s = .next { s with
      x := Vector.ofFn fun j => if j.val = i.toNat then v else s.x[j],
      rspValid := true, rspOk := true, rspData := s.status }) ∧
  (∀ (i : BitVec 5) (v : Word) (s : State), (s.phase = .uninit ∨ s.phase = .output) →
    exec (.wrstate i v) s = .next (reject .phase s)) ∧
  (∀ (i : BitVec 5) (v : Word) (s : State),
    issue ⟨BitVec.ofNat 32 (i.toNat * 2 ^ 4 + 0x6), v⟩ s = exec (.wrstate i v) s) ∧
  RejectsReserved 0x6 9

/-- RDDIGEST (R211): byte k of the digest, in little-endian order, zero-extended. Outside OUTPUT it is rejected with PHASE,
and in OUTPUT with INDEX where k is CFG_H/8 or more. -/
def Obligations.RddigestCompletes : Prop :=
  (∀ (k : BitVec 7) (s : State), s.phase = .output → k.toNat < s.cfgH.toNat / 8 →
    exec (.rddigest k) s = .next { s with
      rspValid := true, rspOk := true,
      rspData := (s.x[k.toNat / 4]'(by have := k.isLt; omega) >>> (8 * (k.toNat % 4))) &&& 0x000000FF }) ∧
  (∀ (k : BitVec 7) (s : State), s.phase ≠ .output → exec (.rddigest k) s = .next (reject .phase s)) ∧
  (∀ (k : BitVec 7) (s : State), s.phase = .output → s.cfgH.toNat / 8 ≤ k.toNat →
    exec (.rddigest k) s = .next (reject .index s)) ∧
  (∀ (k : BitVec 7) (o : Word) (s : State),
    issue ⟨BitVec.ofNat 32 (k.toNat * 2 ^ 4 + 0x7), o⟩ s = exec (.rddigest k) s) ∧
  RejectsReserved 0x7 11

/-- RDCSR (R232), in every phase: the four control registers by number; the other numbers are rejected with INDEX. -/
def Obligations.RdcsrCompletes : Prop :=
  (∀ (c : BitVec 8) (s : State),
    (c = 0 → exec (.rdcsr c) s = .next { s with rspValid := true, rspOk := true, rspData := s.status }) ∧
    (c = 1 → exec (.rdcsr c) s = .next { s with rspValid := true, rspOk := true, rspData := s.cfgR }) ∧
    (c = 2 → exec (.rdcsr c) s =
      .next { s with rspValid := true, rspOk := true, rspData := BitVec.ofNat 32 s.cfgB.toNat }) ∧
    (c = 3 → exec (.rdcsr c) s =
      .next { s with rspValid := true, rspOk := true, rspData := BitVec.ofNat 32 s.cfgH.toNat }) ∧
    (4 ≤ c.toNat → exec (.rdcsr c) s = .next (reject .index s))) ∧
  (∀ (c : BitVec 8) (o : Word) (s : State),
    issue ⟨BitVec.ofNat 32 (c.toNat * 2 ^ 4 + 0x8), o⟩ s = exec (.rdcsr c) s) ∧
  RejectsReserved 0x8 12

/-! ## Frames -/

/-- R67: an accepted RDSTATE, RDDIGEST or RDCSR changes no register and repeating it returns the same value; a rejected one
writes ERR and no other register. NOP changes no register (R233). -/
def Obligations.ReadsHaveNoSideEffects : Prop :=
  ∀ (i : Instr) (s t : State),
    (i = .nop ∨ (∃ j, i = .rdstate j) ∨ (∃ k, i = .rddigest k) ∨ (∃ c, i = .rdcsr c)) → exec i s = .next t →
    (t.x = s.x ∧ t.buf = s.buf ∧ t.bcount = s.bcount ∧ t.phase = s.phase ∧ SameParams s t) ∧
    (t.rspOk = true → t.err = s.err ∧ ∃ u, exec i t = .next u ∧ u.response = t.response ∧ u.status = t.status)

/-- What the writing commands leave unchanged. PERM and WRSTATE: everything but X. ABSORB: the parameters, ERR unless it is
rejected, and every byte of BUF but BUF[BCOUNT]. FINAL: the same, and every byte of BUF below BCOUNT or at CFG_B and above
it. INIT: BUF. -/
def Obligations.WritersLeaveTheRest : Prop :=
  (∀ (i : Instr) (s t : State), ((∃ n, i = .perm n) ∨ (∃ j v, i = .wrstate j v)) → exec i s = .next t →
    t.buf = s.buf ∧ t.bcount = s.bcount ∧ t.phase = s.phase ∧ SameParams s t ∧ (t.rspOk = true → t.err = s.err)) ∧
  (∀ (d : Byte) (s t : State), exec (.absorb d) s = .next t →
    SameParams s t ∧ (t.rspOk = true → t.err = s.err) ∧
      ∀ j : Fin 128, j.val ≠ s.bcount.toNat → t.buf[j] = s.buf[j]) ∧
  (∀ s t : State, exec .final s = .next t →
    SameParams s t ∧ (t.rspOk = true → t.err = s.err) ∧
      ∀ j : Fin 128, (j.val < s.bcount.toNat ∨ (s.cfgB.toNat ≤ j.val ∧ j.val ≠ s.bcount.toNat)) →
        t.buf[j] = s.buf[j]) ∧
  (∀ (b : BitVec 8) (h : BitVec 10) (r : Word) (s t : State), exec (.init b h r) s = .next t →
    t.buf = s.buf ∧ t.stream = s.stream ∧ t.draws = s.draws)

/-! ## Rejections (spec/60_exceptions.md) -/

/-- R266: a rejection writes ERR, then PHASE where the code is BAD_R, BAD_B or BAD_H, then responds (0, STATUS); no other
register changes. -/
def Obligations.RejectionEffect : Prop :=
  ∀ (code : RejectCode) (s : State),
    reject code s = { s with
      err := code.code,
      phase := if code = .badR ∨ code = .badB ∨ code = .badH then .uninit else s.phase,
      rspValid := true, rspOk := false, rspData := (reject code s).status }

/-- R263: a word with an opcode of 0x9 or more is rejected with ILLEGAL, a word with a legal opcode and a reserved bit of its
format (R83) set with RESERVED, in every phase and whatever else holds. -/
def Obligations.DecodeRejections : Prop :=
  ∀ (c : Command) (s : State),
    (9 ≤ c.cmd.toNat % 16 → issue c s = .next (reject .illegal s)) ∧
    ((c.cmd.toNat % 16 = 0 ∨ c.cmd.toNat % 16 = 3 ∨ c.cmd.toNat % 16 = 4) → c.cmd.extractLsb' 4 28 ≠ 0 →
      issue c s = .next (reject .reserved s)) ∧
    (c.cmd.toNat % 16 = 1 → c.cmd.extractLsb' 22 10 ≠ 0 → issue c s = .next (reject .reserved s)) ∧
    ((c.cmd.toNat % 16 = 2 ∨ c.cmd.toNat % 16 = 8) → c.cmd.extractLsb' 12 20 ≠ 0 →
      issue c s = .next (reject .reserved s)) ∧
    ((c.cmd.toNat % 16 = 5 ∨ c.cmd.toNat % 16 = 6) → c.cmd.extractLsb' 9 23 ≠ 0 →
      issue c s = .next (reject .reserved s)) ∧
    (c.cmd.toNat % 16 = 7 → c.cmd.extractLsb' 11 21 ≠ 0 → issue c s = .next (reject .reserved s))

/-- R264: in a phase its row does not permit, a command is rejected with PHASE; in one it permits, no command is. -/
def Obligations.PhaseRejections : Prop :=
  ∀ (i : Instr) (s : State),
    (permitted i s.phase = false → exec i s = .next (reject .phase s)) ∧
    (permitted i s.phase = true → ∀ t, exec i s = .next t → t.rspOk = false → t.err ≠ RejectCode.phase.code)

/-- R265: RDDIGEST at or above CFG_H/8 and RDCSR at or above 4 are rejected with INDEX; RDSTATE and WRSTATE never are. -/
def Obligations.IndexRejections : Prop :=
  (∀ (k : BitVec 7) (s : State), s.phase = .output → s.cfgH.toNat / 8 ≤ k.toNat →
    exec (.rddigest k) s = .next (reject .index s)) ∧
  (∀ (c : BitVec 8) (s : State), 4 ≤ c.toNat → exec (.rdcsr c) s = .next (reject .index s)) ∧
  (∀ i s t, exec (.rdstate i) s = .next t → t.rspOk = false → t.err ≠ 7) ∧
  (∀ i v s t, exec (.wrstate i v) s = .next t → t.rspOk = false → t.err ≠ 7)

/-- R267: only the failing check of highest priority is reported: ILLEGAL, then RESERVED, then for INIT BAD_R, BAD_B, BAD_H,
and for the other commands PHASE, then INDEX. -/
def Obligations.RejectionPriority : Prop :=
  ∀ (c : Command) (s : State),
    (9 ≤ c.cmd.toNat % 16 → issue c s = .next (reject .illegal s)) ∧
    (c.cmd.toNat % 16 < 9 → decode c = .error .reserved → issue c s = .next (reject .reserved s)) ∧
    (∀ b h r, decode c = .ok (.init b h r) → issue c s = (
      if r.toNat = 0 then .next (reject .badR s)
      else if b.toNat = 0 ∨ 128 < b.toNat then .next (reject .badB s)
      else if h.toNat < 8 ∨ 512 < h.toNat ∨ h.toNat % 8 ≠ 0 then .next (reject .badH s)
      else exec (.init b h r) s)) ∧
    (∀ i, decode c = .ok i → (∀ b h r, i ≠ .init b h r) → issue c s = (
      if permitted i s.phase = false then .next (reject .phase s)
      else match i with
        | .rddigest k => if s.cfgH.toNat / 8 ≤ k.toNat then .next (reject .index s) else exec i s
        | .rdcsr n => if 4 ≤ n.toNat then .next (reject .index s) else exec i s
        | _ => exec i s))

/-- R268: ERR keeps the code of the most recent rejection through accepted commands other than INIT, and a later rejection
overwrites it with its own code; an accepted INIT and a reset clear it; a rejection leaves the computation as it was, but for
a configuration rejection, which ends it. -/
def Obligations.ErrPersists : Prop :=
  (∀ i s t, exec i s = .next t → t.rspOk = true → (∀ b h r, i ≠ .init b h r) → t.err = s.err) ∧
  (∀ b h r s t, exec (.init b h r) s = .next t → t.rspOk = true → t.err = 0) ∧
  (∀ s, (applyReset s).err = 0) ∧
  (∀ c s t, issue c s = .next t → t.rspOk = false →
    ∃ code : RejectCode, t = reject code s ∧ t.err = code.code ∧
      t.x = s.x ∧ t.buf = s.buf ∧ t.bcount = s.bcount ∧ SameParams s t ∧
      ((code = .badR ∨ code = .badB ∨ code = .badH) → t.phase = .uninit) ∧
      (¬ (code = .badR ∨ code = .badB ∨ code = .badH) → t.phase = s.phase))

/-- R262 with the model's one stop: from a state that meets the invariant every step answers a next state, so every accepted
ABSORB, FINAL and PERM completes. -/
def Obligations.EveryStepCompletes : Prop :=
  ∀ s : State, s.Inv → ∃ t, step s = .next t

/-- Where the model stops (its own choice, log entry 7): ABSORB and FINAL, in a phase that permits them, where their
pseudocode would write a byte BUF[j] with j at or above 128, which R38 does not give. -/
def Obligations.BufferIndexStops : Prop :=
  ∀ s : State, (s.phase = .inited ∨ s.phase = .absorbing) →
    (∀ d, 128 ≤ s.bcount.toNat → exec (.absorb d) s = .fault .bufferIndex) ∧
    ((128 ≤ s.bcount.toNat ∨ 128 < s.cfgB.toNat) → exec .final s = .fault .bufferIndex)

/-! ## INIT, ABSORB, FINAL: what they compute -/

/-- R144, R145: after an accepted INIT, X and the parameters depend only on its operands: from any two states the same INIT
leaves the same X, parameters, BCOUNT, PHASE, ERR and response, and leaves the IV of the source's `iv(r, b, h)`. -/
def Obligations.InitDependsOnlyOnParameters : Prop :=
  ∀ (b : BitVec 8) (h : BitVec 10) (r : Word) (s s' t t' : State),
    exec (.init b h r) s = .next t → t.rspOk = true → exec (.init b h r) s' = .next t' →
    t.x = Pipeline.iv r.toNat b.toNat h.toNat ∧
    t'.x = t.x ∧ t'.cfgR = t.cfgR ∧ t'.cfgB = t.cfgB ∧ t'.cfgH = t.cfgH ∧ t'.bcount = t.bcount ∧
      t'.phase = t.phase ∧ t'.err = t.err ∧ t'.response = t.response

/-- R160: the padded message is longer than the message, a positive multiple of b, begins with the message, and what is
appended depends on the message's length alone. -/
def Obligations.PaddingContract : Prop :=
  ∀ (b : Nat), 1 ≤ b → ∀ m : List Byte,
    m.length < (Pipeline.pad m b).length ∧ (Pipeline.pad m b).length % b = 0 ∧ 0 < (Pipeline.pad m b).length ∧
    (Pipeline.pad m b).take m.length = m ∧
    ∀ m' : List Byte, m'.length = m.length →
      (Pipeline.pad m' b).drop m.length = (Pipeline.pad m b).drop m.length

/-- R161: P = m || 0x80 || 0x00 × z with z the least that makes |P| a multiple of b; |P| = b·(L/b + 1); L/b + 1 blocks, the
last of which holds the terminator at byte L mod b and zeros after it; no further block when L + 1 is a multiple of b. -/
def Obligations.PaddingIsLeast : Prop :=
  ∀ (b : Nat), 1 ≤ b → ∀ m : List Byte,
    ∃ z, Pipeline.pad m b = m ++ [0x80#8] ++ List.replicate z 0x00#8 ∧
      (m.length + 1 + z) % b = 0 ∧ (∀ z', z' < z → (m.length + 1 + z') % b ≠ 0) ∧
      (Pipeline.pad m b).length = b * (m.length / b + 1) ∧
      (Pipeline.blocks (Pipeline.pad m b) b).length = m.length / b + 1 ∧
      (Pipeline.blocks (Pipeline.pad m b) b)[m.length / b]? =
        some (m.drop (b * (m.length / b)) ++ 0x80#8 :: List.replicate z 0x00#8) ∧
      (m.drop (b * (m.length / b))).length = m.length % b ∧
      ((m.length + 1) % b = 0 → z = 0)

/-- R162: the word the block assembles from BUF[0..b) is the sum of the bytes that are there, each at its place, a missing
byte contributing 0. -/
def Obligations.BlockWordIsTheSum : Prop :=
  ∀ (block : List Byte) (buf : Vector Byte 128), block.length ≤ 128 →
    (∀ k : Fin 128, k.val < block.length → block[k.val]? = some buf[k]) →
    ∀ j : Fin 32, blockWord block.length buf j = Pipeline.wordOf block j.val ∧
      ((block.length + 3) / 4 ≤ j.val → blockWord block.length buf j = 0)

/-- R61, R63, R163: absorbing XORs byte k of the block into byte k of X, under the byte order the digest is read in (byte k is
bits 8·(k mod 4) + 7 : 8·(k mod 4) of word k div 4), and changes no byte of X past the block. -/
def Obligations.BlockBytesAreLittleEndian : Prop :=
  ∀ (b : Nat) (buf : Vector Byte 128) (x : Words) (k : BitVec 7), b ≤ 128 →
    digestByte (xorBlock b buf x) k =
      if k.toNat < b then digestByte x k ^^^ buf[k.toNat]'k.isLt else digestByte x k

/-- R210, R62: the digest bytes RDDIGEST reads are, in index order, the first h/8 bytes of the little-endian serialisation of
X. -/
def Obligations.DigestIsTheSerialisation : Prop :=
  ∀ (x : Words) (n : Nat), n ≤ 64 →
    (List.range n).map (fun k => digestByte x (BitVec.ofNat 7 k)) = (x.toList.flatMap Pipeline.wordBytes).take n

/-- R194, R212: in OUTPUT, X and CFG_H stay as they are, and so does every digest byte, until an INIT or a reset. -/
def Obligations.DigestIsImmutable : Prop :=
  ∀ s t : State, s.phase = .output → step s = .next t →
    (∀ rest, s.stream ≠ .reset :: rest) → (∀ c rest, s.stream ≠ .resetDuring c :: rest) →
    (∀ c rest b h r, s.stream = .command c :: rest → decode c ≠ .ok (.init b h r)) →
    t.phase = .output ∧ t.x = s.x ∧ t.cfgH = s.cfgH

/-- R165: from any state, INIT and one ABSORB per message byte leave X as the IV with the message's full blocks absorbed in
order, and the rest of the message in BUF; and FINAL then leaves X as the source's pipeline leaves it: the IV, the message
padded, all blocks absorbed, finalized. -/
def Obligations.BlockComputesThePipeline : Prop :=
  ∀ (b : BitVec 8) (h : BitVec 10) (r : Word) (m : List Byte) (s : State),
    Pipeline.Legal r.toNat b.toNat h.toNat →
    ∃ u t, execAll (.init b h r :: m.map .absorb) s = .next u ∧ exec .final u = .next t ∧
      execAll (.init b h r :: (m.map .absorb ++ [.final])) s = .next t ∧
      u.x = Pipeline.absorbAll r.toNat b.toNat h.toNat
        ((Pipeline.blocks (Pipeline.pad m b.toNat) b.toNat).take (m.length / b.toNat)) ∧
      u.bcount.toNat = m.length % b.toNat ∧
      (∀ j : Fin 128, j.val < u.bcount.toNat → m[b.toNat * (m.length / b.toNat) + j.val]? = some u.buf[j]) ∧
      (u.phase = if m = [] then .inited else .absorbing) ∧
      t.x = Pipeline.finalState r.toNat b.toNat h.toNat m ∧
      t.phase = .output ∧ t.cfgH = h ∧ t.bcount = 0 ∧ t.err = 0 ∧ t.stream = s.stream

/-- R214: the pseudo-instruction `hash r, b, h, "m"` (R96), assembled and issued from any state: every response has rsp_ok = 1,
and the low bytes of the RDDIGEST responses, in index order, are the digest of the source's `hash(r, b, h, message)`. -/
def Obligations.HashReturnsTheDigest : Prop :=
  ∀ (r b h : Nat) (m : List Byte) (s : State), Pipeline.Legal r b h →
    ∃ cmds rs t, assemble (.hash r b h (m.map BitVec.toNat)) = some cmds ∧ hostRun cmds s = some (rs, t) ∧
      rs.length = m.length + 2 + h / 8 ∧ (∀ q ∈ rs, q.ok = true) ∧
      (rs.drop (m.length + 2)).map (fun q => q.data.setWidth 8) = Pipeline.hash r b h m ∧
      t.phase = .output

/-- R96: the pseudo-instruction `iv r, b, h`, assembled and issued from any state: the 32 RDSTATE responses are the words of
the source's `iv(r, b, h)`, in index order. -/
def Obligations.IvReturnsTheWords : Prop :=
  ∀ (r b h : Nat) (s : State), Pipeline.Legal r b h →
    ∃ cmds rs t, assemble (.iv r b h) = some cmds ∧ hostRun cmds s = some (rs, t) ∧
      (∀ q ∈ rs, q.ok = true) ∧ (rs.drop 1).map Response.data = (Pipeline.iv r b h).toList

/-- R96: a `hash` whose parameters fit their fields and are not legal ends at the INIT: the host sees one response, with
rsp_ok = 0, and no digest byte; ERR names the first illegal parameter (R142, R267), and PHASE is UNINIT. -/
def Obligations.IllegalParametersGiveNoDigest : Prop :=
  ∀ (r b h : Nat) (m : List Byte) (s : State), r < 2 ^ 32 → b < 256 → h < 1024 → ¬ Pipeline.Legal r b h →
    ∃ cmds q t, assemble (.hash r b h (m.map BitVec.toNat)) = some cmds ∧ hostRun cmds s = some ([q], t) ∧
      q.ok = false ∧ t.phase = .uninit ∧ t.err = if r = 0 then 1 else if b = 0 ∨ 128 < b then 2 else 3

/-- R213: a digest has h/8 bytes, which the host renders as h/4 characters. -/
def Obligations.DigestLength : Prop :=
  ∀ (r b h : Nat) (m : List Byte), Pipeline.Legal r b h →
    (Pipeline.hash r b h m).length = h / 8 ∧ (renderHex (Pipeline.hash r b h m)).length = h / 4

/-- R296, R166: the rounds of a whole computation: (L/b + 1)·r + 20·r. -/
def Obligations.WorkOfAComputation : Prop :=
  ∀ (b : BitVec 8) (h : BitVec 10) (r : Word) (m : List Byte) (s : State),
    Pipeline.Legal r.toNat b.toNat h.toNat →
    workAll (.init b h r :: (m.map .absorb ++ [.final])) s =
      (m.length / b.toNat + 1) * r.toNat + 20 * r.toNat

/-! ## Reset (spec/70_reset_and_hazards.md) -/

/-- R290: what reset sets; STATUS, cmd_ready and rsp_valid after it; and the block then waits for a command. What R290 leaves
unspecified (X, BUF, rsp_ok, rsp_data) is not stated. -/
def Obligations.ResetSets : Prop :=
  (∀ (s : State) (rest : List HostInput), s.stream = .reset :: rest → ∃ t, step s = .next t ∧
    t.phase = .uninit ∧ t.cfgR = 0 ∧ t.cfgB = 0 ∧ t.cfgH = 0 ∧ t.bcount = 0 ∧ t.err = 0 ∧
    t.status = 0x00000000 ∧ t.cmdReady = true ∧ t.rspValid = false ∧ t.stream = rest) ∧
  (State.reset.phase = .uninit ∧ State.reset.cfgR = 0 ∧ State.reset.cfgB = 0 ∧ State.reset.cfgH = 0 ∧
    State.reset.bcount = 0 ∧ State.reset.err = 0 ∧ State.reset.status = 0x00000000 ∧
    State.reset.cmdReady = true ∧ State.reset.rspValid = false) ∧
  step State.reset = .next State.reset

/-- R291: a reset while a command is in progress leaves the state a reset alone leaves: the command has no visible effect and
no response. -/
def Obligations.ResetAbortsACommand : Prop :=
  ∀ (s : State) (c : Command) (rest : List HostInput), s.stream = .resetDuring c :: rest →
    step s = step { s with stream := .reset :: rest } ∧ ∀ t, step s = .next t → t.rspValid = false

/-- R292: after reset the only commands accepted are INIT, NOP and RDCSR; every other legal command is rejected with PHASE. -/
def Obligations.AfterResetOnlyInitNopRdcsr : Prop :=
  ∀ s u : State, s = applyReset u ∨ s = State.reset →
    (∃ t, exec .nop s = .next t ∧ t.rspOk = true) ∧
    (∀ b h r, Pipeline.Legal r.toNat b.toNat h.toNat → ∃ t, exec (.init b h r) s = .next t ∧ t.rspOk = true) ∧
    (∀ c, c.toNat < 4 → ∃ t, exec (.rdcsr c) s = .next t ∧ t.rspOk = true ∧ t.rspData = 0) ∧
    (∀ i, i ≠ .nop → (∀ b h r, i ≠ .init b h r) → (∀ c, i ≠ .rdcsr c) → exec i s = .next (reject .phase s))

/-! ## Invariants -/

/-- The state after reset meets the invariant. -/
def Obligations.ResetMeetsTheInvariant : Prop := State.reset.Inv

/-- Every step keeps the invariant: the parameter registers hold legal values or those of reset (R35, R36, R37), BCOUNT is
below CFG_B while a block is open and 0 in INITED and OUTPUT (R39), ERR holds no reserved code (R261), and a rejection's
response is STATUS with a code in it (R93, R266). -/
def Obligations.EveryStepKeepsTheInvariant : Prop :=
  ∀ s t : State, s.Inv → step s = .next t → t.Inv

/-- R32, R38: X while PHASE is UNINIT, and the bytes of BUF at or above BCOUNT, are unobservable: from two states that differ
only there (and in response ports that hold no response) a step gives the same response, or the same stop, and two states
that again differ only there. So no response of any run depends on what reset leaves unspecified. -/
def Obligations.UnspecifiedValuesAreUnobservable : Prop :=
  ∀ s t : State, SameToHost s t → SameOutcome (step s) (step t)

/-! ## Host rendering (spec/00_scope.md) -/

/-- R12: the two's-complement reading of a word. -/
def Obligations.SignedReadingIsTwosComplement : Prop :=
  ∀ w : Word, signedReading w = w.toInt ∧
    (w.toNat < 2 ^ 31 → signedReading w = w.toNat) ∧ (2 ^ 31 ≤ w.toNat → signedReading w = (w.toNat : Int) - 2 ^ 32)
end

