-- ==== Sys2Proof/Laws/Decode.lean ====
section
/-! SUPPORT. What the decoder answers, by opcode, and the fields of an encoded word (spec/30_encoding.md R82 to R89). -/

namespace Sys2Proof

theorem opcode_toNat (w : Word) : (opcode w).toNat = w.toNat % 16 := by simp [opcode]

/-- The fields of a word whose opcode is `n`, and its mask, by R86 and R89. -/
theorem dispatchOp_of {c : Command} {n : Nat} :
    (opcode c.cmd).toNat = n → dispatchOp c = match n with
      | 0 => some .nop
      | 1 => some (.init (fieldB c.cmd) (fieldH c.cmd) c.opd)
      | 2 => some (.absorb (fieldD c.cmd))
      | 3 => some .final
      | 4 => some (.perm c.opd)
      | 5 => some (.rdstate (fieldI c.cmd))
      | 6 => some (.wrstate (fieldI c.cmd) c.opd)
      | 7 => some (.rddigest (fieldK c.cmd))
      | 8 => some (.rdcsr (fieldC c.cmd))
      | _ => none := by
  rintro rfl; rfl

theorem resMask_of {op : BitVec 4} {n : Nat} :
    op.toNat = n → resMask op = match n with
      | 0 => 0xFFFFFFF0
      | 1 => 0xFFC00000
      | 2 => 0xFFFFF000
      | 3 => 0xFFFFFFF0
      | 4 => 0xFFFFFFF0
      | 5 => 0xFFFFFE00
      | 6 => 0xFFFFFE00
      | 7 => 0xFFFFF800
      | 8 => 0xFFFFF000
      | _ => 0 := by
  rintro rfl; rfl

/-- A word decodes when it has a legal opcode and no reserved bit of its format is 1 (R89). -/
theorem decode_ok_iff {c : Command} {i : Instr} :
    decode c = .ok i ↔ dispatchOp c = some i ∧ c.cmd &&& resMask (opcode c.cmd) = 0 := by
  unfold decode
  constructor
  · intro h
    split at h
    · cases h
    · split at h <;> cases h
      exact ⟨‹_›, ‹_›⟩
  · rintro ⟨h, hm⟩
    simp only [h, hm, if_true]

/-- A bit the mask covers is 0. -/
theorem getLsbD_of_masked {w m : Word} (h : w &&& m = 0) (j : Nat) (hm : m.getLsbD j = true) :
    w.getLsbD j = false := by
  have := congrArg (fun v => BitVec.getLsbD v j) h
  simpa [hm] using this

/-! ## A field in bits 4 and up, with the opcode below it -/

theorem toNat_field (n : Nat) (hn : n ≤ 28) (d : BitVec n) (op : Nat) (ho : op < 16) :
    (d.setWidth 32 <<< 4 ||| BitVec.ofNat 32 op).toNat = d.toNat * 16 + op := by
  have hd : d.toNat < 2 ^ 28 := Nat.lt_of_lt_of_le d.isLt (Nat.pow_le_pow_right (by omega) hn)
  have e : d.toNat * 16 + op = d.toNat <<< 4 ||| op := (Nat.shiftLeft_add_eq_or_of_lt (i := 4) (by omega) _) ▸ by
    rw [Nat.shiftLeft_eq]
  rw [e]
  simp only [BitVec.toNat_or, BitVec.toNat_shiftLeft, BitVec.toNat_setWidth, BitVec.toNat_ofNat]
  rw [Nat.mod_eq_of_lt (a := d.toNat) (by omega), Nat.mod_eq_of_lt (a := op) (by omega),
    Nat.mod_eq_of_lt (by rw [Nat.shiftLeft_eq]; omega)]

/-- Format FI: H above B above the opcode (R83). -/
theorem toNat_init (b : BitVec 8) (h : BitVec 10) :
    (h.setWidth 32 <<< 12 ||| b.setWidth 32 <<< 4 ||| 0x1#32).toNat = h.toNat * 4096 + b.toNat * 16 + 1 := by
  have hb := b.isLt
  have hh := h.isLt
  have e1 : b.toNat <<< 4 ||| 1 = b.toNat * 16 + 1 := by
    rw [← Nat.shiftLeft_add_eq_or_of_lt (i := 4) (by omega), Nat.shiftLeft_eq]
  have e2 : h.toNat <<< 12 ||| (b.toNat * 16 + 1) = h.toNat * 4096 + (b.toNat * 16 + 1) := by
    rw [← Nat.shiftLeft_add_eq_or_of_lt (i := 12) (by omega), Nat.shiftLeft_eq]
  simp only [BitVec.toNat_or, BitVec.toNat_shiftLeft, BitVec.toNat_setWidth, BitVec.toNat_ofNat]
  rw [Nat.mod_eq_of_lt (a := h.toNat) (by omega), Nat.mod_eq_of_lt (a := b.toNat) (by omega),
    Nat.mod_eq_of_lt (a := h.toNat <<< 12) (by rw [Nat.shiftLeft_eq]; omega),
    Nat.mod_eq_of_lt (a := b.toNat <<< 4) (by rw [Nat.shiftLeft_eq]; omega),
    Nat.mod_eq_of_lt (a := 1) (by omega), Nat.or_assoc, e1, e2]
  omega

/-- A slice of a word, as a number. -/
theorem toNat_slice (w : Word) (start len : Nat) :
    (w.extractLsb' start len).toNat = w.toNat / 2 ^ start % 2 ^ len := by
  simp [BitVec.extractLsb'_toNat, Nat.shiftRight_eq_div_pow]

/-- A word below 2^k has no bit at or above k, so no mask over those bits meets it. -/
theorem and_mask_eq_zero {w : Word} (k j : Nat) (hk : w.toNat < 2 ^ k) :
    w &&& (BitVec.ofNat 32 j <<< k) = 0 := by
  apply BitVec.eq_of_getLsbD_eq
  intro i hi
  by_cases h : i < k
  · simp [h]
  · have : w.getLsbD i = false := by
      rw [BitVec.getLsbD, Nat.testBit_lt_two_pow]
      exact Nat.lt_of_lt_of_le hk (Nat.pow_le_pow_right (by omega) (by omega))
    simp [this]

end Sys2Proof
end

