-- ==== Sys2Proof/Laws/State.lean ====
section
/-! SUPPORT. One lemma per field per update of the state, so that no proof unfolds a record update. -/

namespace Sys2Proof.Machine

@[simp] theorem respond_x (ok : Bool) (data : Word) (s : State) : (respond ok data s).x = s.x := rfl
@[simp] theorem respond_phase (ok : Bool) (data : Word) (s : State) : (respond ok data s).phase = s.phase := rfl
@[simp] theorem respond_cfgR (ok : Bool) (data : Word) (s : State) : (respond ok data s).cfgR = s.cfgR := rfl
@[simp] theorem respond_cfgB (ok : Bool) (data : Word) (s : State) : (respond ok data s).cfgB = s.cfgB := rfl
@[simp] theorem respond_cfgH (ok : Bool) (data : Word) (s : State) : (respond ok data s).cfgH = s.cfgH := rfl
@[simp] theorem respond_buf (ok : Bool) (data : Word) (s : State) : (respond ok data s).buf = s.buf := rfl
@[simp] theorem respond_bcount (ok : Bool) (data : Word) (s : State) : (respond ok data s).bcount = s.bcount := rfl
@[simp] theorem respond_err (ok : Bool) (data : Word) (s : State) : (respond ok data s).err = s.err := rfl
@[simp] theorem respond_rspValid (ok : Bool) (data : Word) (s : State) : (respond ok data s).rspValid = true := rfl
@[simp] theorem respond_rspOk (ok : Bool) (data : Word) (s : State) : (respond ok data s).rspOk = ok := rfl
@[simp] theorem respond_rspData (ok : Bool) (data : Word) (s : State) : (respond ok data s).rspData = data := rfl
@[simp] theorem respond_stream (ok : Bool) (data : Word) (s : State) : (respond ok data s).stream = s.stream := rfl
@[simp] theorem respond_draws (ok : Bool) (data : Word) (s : State) : (respond ok data s).draws = s.draws := rfl

@[simp] theorem accept_x (s : State) : (accept s).x = s.x := rfl
@[simp] theorem accept_phase (s : State) : (accept s).phase = s.phase := rfl
@[simp] theorem accept_cfgR (s : State) : (accept s).cfgR = s.cfgR := rfl
@[simp] theorem accept_cfgB (s : State) : (accept s).cfgB = s.cfgB := rfl
@[simp] theorem accept_cfgH (s : State) : (accept s).cfgH = s.cfgH := rfl
@[simp] theorem accept_buf (s : State) : (accept s).buf = s.buf := rfl
@[simp] theorem accept_bcount (s : State) : (accept s).bcount = s.bcount := rfl
@[simp] theorem accept_err (s : State) : (accept s).err = s.err := rfl
@[simp] theorem accept_rspValid (s : State) : (accept s).rspValid = true := rfl
@[simp] theorem accept_rspOk (s : State) : (accept s).rspOk = true := rfl
@[simp] theorem accept_rspData (s : State) : (accept s).rspData = s.status := rfl
@[simp] theorem accept_stream (s : State) : (accept s).stream = s.stream := rfl
@[simp] theorem accept_draws (s : State) : (accept s).draws = s.draws := rfl

@[simp] theorem markRejected_x (code : RejectCode) (s : State) : (markRejected code s).x = s.x := rfl
@[simp] theorem markRejected_phase (code : RejectCode) (s : State) : (markRejected code s).phase = if code.isConfig then .uninit else s.phase := rfl
@[simp] theorem markRejected_cfgR (code : RejectCode) (s : State) : (markRejected code s).cfgR = s.cfgR := rfl
@[simp] theorem markRejected_cfgB (code : RejectCode) (s : State) : (markRejected code s).cfgB = s.cfgB := rfl
@[simp] theorem markRejected_cfgH (code : RejectCode) (s : State) : (markRejected code s).cfgH = s.cfgH := rfl
@[simp] theorem markRejected_buf (code : RejectCode) (s : State) : (markRejected code s).buf = s.buf := rfl
@[simp] theorem markRejected_bcount (code : RejectCode) (s : State) : (markRejected code s).bcount = s.bcount := rfl
@[simp] theorem markRejected_err (code : RejectCode) (s : State) : (markRejected code s).err = code.code := rfl
@[simp] theorem markRejected_rspValid (code : RejectCode) (s : State) : (markRejected code s).rspValid = s.rspValid := rfl
@[simp] theorem markRejected_rspOk (code : RejectCode) (s : State) : (markRejected code s).rspOk = s.rspOk := rfl
@[simp] theorem markRejected_rspData (code : RejectCode) (s : State) : (markRejected code s).rspData = s.rspData := rfl
@[simp] theorem markRejected_stream (code : RejectCode) (s : State) : (markRejected code s).stream = s.stream := rfl
@[simp] theorem markRejected_draws (code : RejectCode) (s : State) : (markRejected code s).draws = s.draws := rfl

@[simp] theorem reject_x (code : RejectCode) (s : State) : (reject code s).x = s.x := rfl
@[simp] theorem reject_phase (code : RejectCode) (s : State) : (reject code s).phase = if code.isConfig then .uninit else s.phase := rfl
@[simp] theorem reject_cfgR (code : RejectCode) (s : State) : (reject code s).cfgR = s.cfgR := rfl
@[simp] theorem reject_cfgB (code : RejectCode) (s : State) : (reject code s).cfgB = s.cfgB := rfl
@[simp] theorem reject_cfgH (code : RejectCode) (s : State) : (reject code s).cfgH = s.cfgH := rfl
@[simp] theorem reject_buf (code : RejectCode) (s : State) : (reject code s).buf = s.buf := rfl
@[simp] theorem reject_bcount (code : RejectCode) (s : State) : (reject code s).bcount = s.bcount := rfl
@[simp] theorem reject_err (code : RejectCode) (s : State) : (reject code s).err = code.code := rfl
@[simp] theorem reject_rspValid (code : RejectCode) (s : State) : (reject code s).rspValid = true := rfl
@[simp] theorem reject_rspOk (code : RejectCode) (s : State) : (reject code s).rspOk = false := rfl
@[simp] theorem reject_rspData (code : RejectCode) (s : State) : (reject code s).rspData = (markRejected code s).status := rfl
@[simp] theorem reject_stream (code : RejectCode) (s : State) : (reject code s).stream = s.stream := rfl
@[simp] theorem reject_draws (code : RejectCode) (s : State) : (reject code s).draws = s.draws := rfl

@[simp] theorem applyReset_x (s : State) : (applyReset s).x = Vector.ofFn fun i => Config.resetX s.draws i.val := by simp only [applyReset]
@[simp] theorem applyReset_phase (s : State) : (applyReset s).phase = .uninit := by simp only [applyReset]
@[simp] theorem applyReset_cfgR (s : State) : (applyReset s).cfgR = 0 := by simp only [applyReset]
@[simp] theorem applyReset_cfgB (s : State) : (applyReset s).cfgB = 0 := by simp only [applyReset]
@[simp] theorem applyReset_cfgH (s : State) : (applyReset s).cfgH = 0 := by simp only [applyReset]
@[simp] theorem applyReset_buf (s : State) : (applyReset s).buf = Vector.ofFn fun j => Config.resetBuf s.draws j.val := by simp only [applyReset]
@[simp] theorem applyReset_bcount (s : State) : (applyReset s).bcount = 0 := by simp only [applyReset]
@[simp] theorem applyReset_err (s : State) : (applyReset s).err = 0 := by simp only [applyReset]
@[simp] theorem applyReset_rspValid (s : State) : (applyReset s).rspValid = false := by simp only [applyReset]
@[simp] theorem applyReset_rspOk (s : State) : (applyReset s).rspOk = Config.resetRspOk s.draws := by simp only [applyReset]
@[simp] theorem applyReset_rspData (s : State) : (applyReset s).rspData = Config.resetRspData s.draws := by simp only [applyReset]
@[simp] theorem applyReset_stream (s : State) : (applyReset s).stream = s.stream := by simp only [applyReset]
@[simp] theorem applyReset_draws (s : State) : (applyReset s).draws = s.draws + 1 := by simp only [applyReset]

@[simp] theorem idle_x (s : State) : (idle s).x = s.x := rfl
@[simp] theorem idle_phase (s : State) : (idle s).phase = s.phase := rfl
@[simp] theorem idle_cfgR (s : State) : (idle s).cfgR = s.cfgR := rfl
@[simp] theorem idle_cfgB (s : State) : (idle s).cfgB = s.cfgB := rfl
@[simp] theorem idle_cfgH (s : State) : (idle s).cfgH = s.cfgH := rfl
@[simp] theorem idle_buf (s : State) : (idle s).buf = s.buf := rfl
@[simp] theorem idle_bcount (s : State) : (idle s).bcount = s.bcount := rfl
@[simp] theorem idle_err (s : State) : (idle s).err = s.err := rfl
@[simp] theorem idle_rspValid (s : State) : (idle s).rspValid = false := rfl
@[simp] theorem idle_rspOk (s : State) : (idle s).rspOk = s.rspOk := rfl
@[simp] theorem idle_rspData (s : State) : (idle s).rspData = s.rspData := rfl
@[simp] theorem idle_stream (s : State) : (idle s).stream = s.stream := rfl
@[simp] theorem idle_draws (s : State) : (idle s).draws = s.draws := rfl

@[simp] theorem pushByte_x (d : Byte) (s : State) (h : s.bcount.toNat < 128) : (pushByte d s h).x = s.x := rfl
@[simp] theorem pushByte_phase (d : Byte) (s : State) (h : s.bcount.toNat < 128) : (pushByte d s h).phase = .absorbing := rfl
@[simp] theorem pushByte_cfgR (d : Byte) (s : State) (h : s.bcount.toNat < 128) : (pushByte d s h).cfgR = s.cfgR := rfl
@[simp] theorem pushByte_cfgB (d : Byte) (s : State) (h : s.bcount.toNat < 128) : (pushByte d s h).cfgB = s.cfgB := rfl
@[simp] theorem pushByte_cfgH (d : Byte) (s : State) (h : s.bcount.toNat < 128) : (pushByte d s h).cfgH = s.cfgH := rfl
@[simp] theorem pushByte_buf (d : Byte) (s : State) (h : s.bcount.toNat < 128) : (pushByte d s h).buf = s.buf.set s.bcount.toNat d h := rfl
@[simp] theorem pushByte_bcount (d : Byte) (s : State) (h : s.bcount.toNat < 128) : (pushByte d s h).bcount = s.bcount + 1 := rfl
@[simp] theorem pushByte_err (d : Byte) (s : State) (h : s.bcount.toNat < 128) : (pushByte d s h).err = s.err := rfl
@[simp] theorem pushByte_rspValid (d : Byte) (s : State) (h : s.bcount.toNat < 128) : (pushByte d s h).rspValid = s.rspValid := rfl
@[simp] theorem pushByte_rspOk (d : Byte) (s : State) (h : s.bcount.toNat < 128) : (pushByte d s h).rspOk = s.rspOk := rfl
@[simp] theorem pushByte_rspData (d : Byte) (s : State) (h : s.bcount.toNat < 128) : (pushByte d s h).rspData = s.rspData := rfl
@[simp] theorem pushByte_stream (d : Byte) (s : State) (h : s.bcount.toNat < 128) : (pushByte d s h).stream = s.stream := rfl
@[simp] theorem pushByte_draws (d : Byte) (s : State) (h : s.bcount.toNat < 128) : (pushByte d s h).draws = s.draws := rfl

@[simp] theorem absorbBlock_x (s : State) : (absorbBlock s).x = transform s.cfgR.toNat (xorBlock s.cfgB.toNat s.buf s.x) := by simp only [absorbBlock]
@[simp] theorem absorbBlock_phase (s : State) : (absorbBlock s).phase = s.phase := by simp only [absorbBlock]
@[simp] theorem absorbBlock_cfgR (s : State) : (absorbBlock s).cfgR = s.cfgR := by simp only [absorbBlock]
@[simp] theorem absorbBlock_cfgB (s : State) : (absorbBlock s).cfgB = s.cfgB := by simp only [absorbBlock]
@[simp] theorem absorbBlock_cfgH (s : State) : (absorbBlock s).cfgH = s.cfgH := by simp only [absorbBlock]
@[simp] theorem absorbBlock_buf (s : State) : (absorbBlock s).buf = s.buf := by simp only [absorbBlock]
@[simp] theorem absorbBlock_bcount (s : State) : (absorbBlock s).bcount = s.bcount := by simp only [absorbBlock]
@[simp] theorem absorbBlock_err (s : State) : (absorbBlock s).err = s.err := by simp only [absorbBlock]
@[simp] theorem absorbBlock_rspValid (s : State) : (absorbBlock s).rspValid = s.rspValid := by simp only [absorbBlock]
@[simp] theorem absorbBlock_rspOk (s : State) : (absorbBlock s).rspOk = s.rspOk := by simp only [absorbBlock]
@[simp] theorem absorbBlock_rspData (s : State) : (absorbBlock s).rspData = s.rspData := by simp only [absorbBlock]
@[simp] theorem absorbBlock_stream (s : State) : (absorbBlock s).stream = s.stream := by simp only [absorbBlock]
@[simp] theorem absorbBlock_draws (s : State) : (absorbBlock s).draws = s.draws := by simp only [absorbBlock]

@[simp] theorem padBlock_x (s : State) : (padBlock s).x = s.x := by simp only [padBlock]
@[simp] theorem padBlock_phase (s : State) : (padBlock s).phase = s.phase := by simp only [padBlock]
@[simp] theorem padBlock_cfgR (s : State) : (padBlock s).cfgR = s.cfgR := by simp only [padBlock]
@[simp] theorem padBlock_cfgB (s : State) : (padBlock s).cfgB = s.cfgB := by simp only [padBlock]
@[simp] theorem padBlock_cfgH (s : State) : (padBlock s).cfgH = s.cfgH := by simp only [padBlock]
@[simp] theorem padBlock_buf (s : State) : (padBlock s).buf = padBytes s.bcount.toNat s.cfgB.toNat s.buf := by simp only [padBlock]
@[simp] theorem padBlock_bcount (s : State) : (padBlock s).bcount = s.bcount := by simp only [padBlock]
@[simp] theorem padBlock_err (s : State) : (padBlock s).err = s.err := by simp only [padBlock]
@[simp] theorem padBlock_rspValid (s : State) : (padBlock s).rspValid = s.rspValid := by simp only [padBlock]
@[simp] theorem padBlock_rspOk (s : State) : (padBlock s).rspOk = s.rspOk := by simp only [padBlock]
@[simp] theorem padBlock_rspData (s : State) : (padBlock s).rspData = s.rspData := by simp only [padBlock]
@[simp] theorem padBlock_stream (s : State) : (padBlock s).stream = s.stream := by simp only [padBlock]
@[simp] theorem padBlock_draws (s : State) : (padBlock s).draws = s.draws := by simp only [padBlock]

@[simp] theorem clearCount_x (s : State) : (clearCount s).x = s.x := rfl
@[simp] theorem clearCount_phase (s : State) : (clearCount s).phase = s.phase := rfl
@[simp] theorem clearCount_cfgR (s : State) : (clearCount s).cfgR = s.cfgR := rfl
@[simp] theorem clearCount_cfgB (s : State) : (clearCount s).cfgB = s.cfgB := rfl
@[simp] theorem clearCount_cfgH (s : State) : (clearCount s).cfgH = s.cfgH := rfl
@[simp] theorem clearCount_buf (s : State) : (clearCount s).buf = s.buf := rfl
@[simp] theorem clearCount_bcount (s : State) : (clearCount s).bcount = 0 := rfl
@[simp] theorem clearCount_err (s : State) : (clearCount s).err = s.err := rfl
@[simp] theorem clearCount_rspValid (s : State) : (clearCount s).rspValid = s.rspValid := rfl
@[simp] theorem clearCount_rspOk (s : State) : (clearCount s).rspOk = s.rspOk := rfl
@[simp] theorem clearCount_rspData (s : State) : (clearCount s).rspData = s.rspData := rfl
@[simp] theorem clearCount_stream (s : State) : (clearCount s).stream = s.stream := rfl
@[simp] theorem clearCount_draws (s : State) : (clearCount s).draws = s.draws := rfl

@[simp] theorem finish_x (s : State) : (finish s).x = times Config.finalCalls (transform s.cfgR.toNat) (flipEnd s.x) := by simp only [finish]
@[simp] theorem finish_phase (s : State) : (finish s).phase = .output := by simp only [finish]
@[simp] theorem finish_cfgR (s : State) : (finish s).cfgR = s.cfgR := by simp only [finish]
@[simp] theorem finish_cfgB (s : State) : (finish s).cfgB = s.cfgB := by simp only [finish]
@[simp] theorem finish_cfgH (s : State) : (finish s).cfgH = s.cfgH := by simp only [finish]
@[simp] theorem finish_buf (s : State) : (finish s).buf = s.buf := by simp only [finish]
@[simp] theorem finish_bcount (s : State) : (finish s).bcount = s.bcount := by simp only [finish]
@[simp] theorem finish_err (s : State) : (finish s).err = s.err := by simp only [finish]
@[simp] theorem finish_rspValid (s : State) : (finish s).rspValid = s.rspValid := by simp only [finish]
@[simp] theorem finish_rspOk (s : State) : (finish s).rspOk = s.rspOk := by simp only [finish]
@[simp] theorem finish_rspData (s : State) : (finish s).rspData = s.rspData := by simp only [finish]
@[simp] theorem finish_stream (s : State) : (finish s).stream = s.stream := by simp only [finish]
@[simp] theorem finish_draws (s : State) : (finish s).draws = s.draws := by simp only [finish]

@[simp] theorem respond_status (ok : Bool) (data : Word) (s : State) : (respond ok data s).status = s.status := rfl
@[simp] theorem accept_status (s : State) : (accept s).status = s.status := rfl
@[simp] theorem idle_status (s : State) : (idle s).status = s.status := rfl
@[simp] theorem reject_status (code : RejectCode) (s : State) :
    (reject code s).status = (markRejected code s).status := rfl

end Sys2Proof.Machine
end

