-- ==== Sys2Proof/Laws/Transform.lean ====
section
/-! SUPPORT. Lemmas about the lanes of a round and about repetition (spec/40_state_transform.md). -/

namespace Sys2Proof.Machine

@[simp] theorem lanes_getElem (f : Fin 16 → Word) (i : Nat) (h : i < 16) : (lanes f)[i] = f ⟨i, h⟩ := by
  simp [lanes]

@[simp] theorem lowHalf_getElem (x : Words) (i : Nat) (h : i < 16) : (lowHalf x)[i] = x[i] := by
  simp [lowHalf]

@[simp] theorem highHalf_getElem (x : Words) (i : Nat) (h : i < 16) : (highHalf x)[i] = x[16 + i] := by
  simp [highHalf]

@[simp] theorem stash_getElem (k : Fin 16) (v : Half) (i : Nat) (h : i < 16) :
    (stash k v)[i] = v[(⟨i, h⟩ : Fin 16) ^^^ k] := by
  simp [stash]

/-- i -> i xor k is its own inverse (R111). -/
theorem xor_xor_lane (i k : Fin 16) : i ^^^ k ^^^ k = i := by
  revert i k; decide

@[simp] theorem times_zero {α : Type} (f : α → α) (a : α) : times 0 f a = a := rfl

theorem times_succ {α : Type} (n : Nat) (f : α → α) (a : α) : times (n + 1) f a = times n f (f a) := rfl

/-- The last repetition can be taken apart as well as the first. -/
theorem times_succ_last {α : Type} (n : Nat) (f : α → α) (a : α) : times (n + 1) f a = f (times n f a) := by
  induction n generalizing a with
  | zero => rfl
  | succ n ih => rw [times_succ, ih, times_succ]

/-- m repetitions, then n more. -/
theorem times_add {α : Type} (m n : Nat) (f : α → α) (a : α) : times (m + n) f a = times n f (times m f a) := by
  induction n with
  | zero => rfl
  | succ n ih => rw [Nat.add_succ, times_succ_last, ih, times_succ_last]

/-- k calls of n repetitions are k·n repetitions (R141, R193). -/
theorem times_times {α : Type} (k n : Nat) (f : α → α) (a : α) : times k (times n f) a = times (k * n) f a := by
  induction k generalizing a with
  | zero => simp
  | succ k ih => rw [times_succ, ih, ← times_add, Nat.add_comm, Nat.succ_mul]

/-- Ten calls of T(n) are T(10·n) (R141, R193). -/
theorem times_transform (k n : Nat) (x : Words) : times k (transform n) x = transform (k * n) x :=
  times_times k n oneRound x

end Sys2Proof.Machine
end

