-- ==== Sys2Proof/Laws/Ops.lean ====
section
/-! SUPPORT. What each shared operation and each meaning can do, said once: "if it answers next t, then …". -/

namespace Sys2Proof.Machine

theorem isOpen_iff (p : Phase) : p.isOpen = true ↔ p = .inited ∨ p = .absorbing := by
  cases p <;> simp [Phase.isOpen]

theorem isOpen_false_iff (p : Phase) : p.isOpen = false ↔ p = .uninit ∨ p = .output := by
  cases p <;> simp [Phase.isOpen]

/-- A code is one of 1 to 7 (R261). -/
theorem code_range (code : RejectCode) : 1 ≤ code.code.toNat ∧ code.code.toNat ≤ 7 := by
  cases code <;> decide

/-- The configuration errors are the codes 1, 2 and 3 (R261). -/
theorem isConfig_iff (code : RejectCode) :
    code.isConfig = true ↔ code.code = 1 ∨ code.code = 2 ∨ code.code = 3 := by
  cases code <;> decide

/-- Distinct reasons have distinct codes (R261). -/
theorem code_injective (c d : RejectCode) (h : c.code = d.code) : c = d := by
  revert h; cases c <;> cases d <;> decide

/-! ## The operands -/

theorem writeWord_getElem (x : Words) (i : BitVec 5) (v : Word) (j : Nat) (h : j < 32) :
    (writeWord x i v)[j] = if j = i.toNat then v else x[j] := by
  simp only [writeWord, Vector.getElem_set, eq_comm]

theorem padBytes_getElem (n b : Nat) (buf : Vector Byte 128) (j : Nat) (h : j < 128) :
    (padBytes n b buf)[j] = if j = n then 0x80 else if n < j ∧ j < b then 0 else buf[j] := by
  simp [padBytes, Config.padByte]

theorem xorBlock_getElem (b : Nat) (buf : Vector Byte 128) (x : Words) (j : Nat) (h : j < 32) :
    (xorBlock b buf x)[j] = if j < (b + 3) / 4 then x[j] ^^^ blockWord b buf ⟨j, h⟩ else x[j] := by
  simp [xorBlock]

theorem flipEnd_getElem (x : Words) (j : Nat) (h : j < 32) :
    (flipEnd x)[j] = if j = 31 then x[j] ^^^ 1 else x[j] := by
  by_cases hj : j = 31
  · subst hj; simp [flipEnd, Config.finalFlip]
  · simp [flipEnd, hj, Ne.symm hj]

theorem seed_getElem (r : Word) (b : BitVec 8) (h : BitVec 10) (j : Nat) (hj : j < 32) :
    (seed r b h)[j] =
      if j = 0 then BitVec.ofNat 32 (h.toNat / 8) else if j = 1 then b.setWidth 32 else if j = 2 then r else 0 := by
  simp only [seed, Vector.getElem_set, Vector.getElem_replicate]
  rcases j with _ | _ | _ | j <;> simp

/-! ## The meanings -/

/-- NOP ends as an accepted command. -/
theorem execNop_eq (s : State) : execNop s = .next (accept s) := rfl

theorem execRdstate_cases {i : BitVec 5} {s t : State} (h : execRdstate i s = .next t) :
    (s.phase ≠ .uninit ∧ t = respond true (readWord s.x i) s) ∨ (s.phase = .uninit ∧ t = reject .phase s) := by
  unfold execRdstate at h
  split at h <;> cases h
  · exact .inr ⟨‹_›, rfl⟩
  · exact .inl ⟨‹_›, rfl⟩

theorem execWrstate_cases {i : BitVec 5} {v : Word} {s t : State} (h : execWrstate i v s = .next t) :
    (s.phase.isOpen = true ∧ t = accept { s with x := writeWord s.x i v }) ∨
      (s.phase.isOpen = false ∧ t = reject .phase s) := by
  unfold execWrstate at h
  split at h <;> cases h
  · exact .inl ⟨‹_›, rfl⟩
  · exact .inr ⟨Bool.eq_false_of_not_eq_true ‹_›, rfl⟩

theorem execRdcsr_cases {c : BitVec 8} {s t : State} (h : execRdcsr c s = .next t) :
    (∃ v, readCsr s c = some v ∧ t = respond true v s) ∨ (readCsr s c = none ∧ t = reject .index s) := by
  unfold execRdcsr at h
  split at h <;> cases h
  · exact .inl ⟨_, ‹_›, rfl⟩
  · exact .inr ⟨‹_›, rfl⟩

theorem execPerm_cases {n : Word} {s t : State} (h : execPerm n s = .next t) :
    (s.phase.isOpen = true ∧ t = accept { s with x := transform n.toNat s.x }) ∨
      (s.phase.isOpen = false ∧ t = reject .phase s) := by
  unfold execPerm at h
  split at h <;> cases h
  · exact .inl ⟨‹_›, rfl⟩
  · exact .inr ⟨Bool.eq_false_of_not_eq_true ‹_›, rfl⟩

theorem execInit_cases {b : BitVec 8} {h : BitVec 10} {r : Word} {s t : State} (e : execInit b h r s = .next t) :
    (configError r b h = none ∧ t = accept { s with
      cfgR := r, cfgB := b, cfgH := h, x := ivWords r b h, bcount := 0, phase := .inited, err := 0 }) ∨
      (∃ code, configError r b h = some code ∧ t = reject code s) := by
  unfold execInit at e
  split at e <;> cases e
  · exact .inr ⟨_, ‹_›, rfl⟩
  · exact .inl ⟨‹_›, rfl⟩

/-- A configuration check that fails names a configuration error. -/
theorem configError_isConfig {r : Word} {b : BitVec 8} {h : BitVec 10} {code : RejectCode}
    (e : configError r b h = some code) : code.isConfig = true := by
  unfold configError at e
  split at e
  · cases e; rfl
  · split at e
    · cases e; rfl
    · split at e
      · cases e; rfl
      · cases e

/-- The parameters that pass INIT's checks are the legal ones (R2, R143). -/
theorem configError_none_iff (r : Word) (b : BitVec 8) (h : BitVec 10) :
    configError r b h = none ↔
      1 ≤ r.toNat ∧ 1 ≤ b.toNat ∧ b.toNat ≤ 128 ∧ 8 ≤ h.toNat ∧ h.toNat ≤ 512 ∧ h.toNat % 8 = 0 := by
  simp only [configError, Config.rMin, Config.bMin, Config.bMax, Config.hMin, Config.hMax, Config.hStep]
  constructor
  · intro e
    split at e
    · cases e
    · split at e
      · cases e
      · split at e
        · cases e
        · omega
  · rintro ⟨h1, h2, h3, h4, h5, h6⟩
    rw [if_neg (by omega), if_neg (by omega), if_neg (by omega)]

theorem execAbsorb_cases {d : Byte} {s t : State} (h : execAbsorb d s = .next t) :
    (s.phase.isOpen = true ∧ ∃ hb, t = accept (absorbIfFull (pushByte d s hb))) ∨
      (s.phase.isOpen = false ∧ t = reject .phase s) := by
  unfold execAbsorb at h
  split at h
  · split at h <;> cases h
    exact .inl ⟨‹_›, ‹_›, rfl⟩
  · cases h
    exact .inr ⟨Bool.eq_false_of_not_eq_true ‹_›, rfl⟩

/-- The byte that arrives completes the block, or waits in BUF. -/
theorem absorbIfFull_cases (s : State) :
    (s.bcount = s.cfgB ∧ absorbIfFull s = clearCount (absorbBlock s)) ∨
      (s.bcount ≠ s.cfgB ∧ absorbIfFull s = s) := by
  unfold absorbIfFull
  split
  · exact .inl ⟨‹_›, rfl⟩
  · exact .inr ⟨‹_›, rfl⟩

theorem execFinal_cases {s t : State} (h : execFinal s = .next t) :
    (s.phase.isOpen = true ∧ s.blockFits = true ∧
      t = accept (finish (clearCount (absorbBlock (padBlock s))))) ∨
      (s.phase.isOpen = false ∧ t = reject .phase s) := by
  unfold execFinal at h
  split at h
  · split at h <;> cases h
    exact .inl ⟨‹_›, ‹_›, rfl⟩
  · cases h
    exact .inr ⟨Bool.eq_false_of_not_eq_true ‹_›, rfl⟩

theorem execRddigest_cases {k : BitVec 7} {s t : State} (h : execRddigest k s = .next t) :
    (s.phase = .output ∧ k.toNat < s.cfgH.toNat / 8 ∧
      t = respond true ((digestByte s.x k).setWidth 32) s) ∨
      (s.phase = .output ∧ s.cfgH.toNat / 8 ≤ k.toNat ∧ t = reject .index s) ∨
      (s.phase ≠ .output ∧ t = reject .phase s) := by
  unfold execRddigest at h
  split at h
  · split at h <;> cases h
    · exact .inl ⟨‹_›, ‹_›, rfl⟩
    · exact .inr (.inl ⟨‹_›, by omega, rfl⟩)
  · cases h
    exact .inr (.inr ⟨‹_›, rfl⟩)

/-! ## A command and a step -/

/-- A command is rejected by the decoder, or carried out as the instruction it decodes to. -/
theorem issue_cases {c : Command} {s t : State} (h : issue c s = .next t) :
    (∃ e, decode c = .error e ∧ t = reject (decodeReject e) s) ∨
      (∃ i, decode c = .ok i ∧ exec i s = .next t) := by
  unfold issue at h
  split at h
  · cases h
    exact .inl ⟨_, ‹_›, rfl⟩
  · exact .inr ⟨_, ‹_›, h⟩

/-- A step with nothing in the stream is idle, a step with an input takes it, and the input is a command or a reset. -/
theorem step_cases {s t : State} (h : step s = .next t) :
    (s.stream = [] ∧ t = idle s) ∨
      (∃ c rest, s.stream = .command c :: rest ∧ issue c { s with stream := rest } = .next t) ∨
      (∃ input rest, s.stream = input :: rest ∧ (input = .reset ∨ ∃ c, input = .resetDuring c) ∧
        t = applyReset { s with stream := rest }) := by
  unfold step at h
  split at h
  · cases h
    exact .inl ⟨‹_›, rfl⟩
  · rename_i input rest hs
    cases input with
    | command c => exact .inr (.inl ⟨c, rest, hs, h⟩)
    | reset => exact .inr (.inr ⟨_, rest, hs, .inl rfl, (Host.Outcome.next.inj h).symm⟩)
    | resetDuring c => exact .inr (.inr ⟨_, rest, hs, .inr ⟨c, rfl⟩, (Host.Outcome.next.inj h).symm⟩)

end Sys2Proof.Machine
end

