-- ==== Sys2Proof/Laws/Exec.lean ====
section
/-! SUPPORT. How a command can end (spec/00_scope.md R9, R11, spec/60_exceptions.md R266), said once for all commands. -/

namespace Sys2Proof.Machine

/-- STATUS in INITED with nothing pending and ERR clear: the response of an accepted INIT (R142). -/
theorem status_inited {s : State} (hb : s.bcount = 0) (he : s.err = 0) (hp : s.phase = .inited) : s.status = 1 := by
  simp only [State.status, hb, he, hp]; rfl

/-- Absorbing a full block leaves the inputs, ERR and PHASE alone. -/
theorem absorbIfFull_keeps (s : State) :
    (absorbIfFull s).stream = s.stream ∧ (absorbIfFull s).draws = s.draws ∧ (absorbIfFull s).err = s.err ∧
      (absorbIfFull s).phase = s.phase := by
  rcases absorbIfFull_cases s with ⟨_, e⟩ | ⟨_, e⟩ <;> rw [e] <;> simp

/-- How a command that answers a next state ends: accepted, with ERR as before (0 after INIT), or rejected; and only INIT
is rejected with a configuration error. -/
def Ends (i : Instr) (s t : State) : Prop :=
  (t.rspOk = true ∧ t.rspValid = true ∧ t.stream = s.stream ∧ t.draws = s.draws ∧
    t.err = match i with | .init _ _ _ => 0 | _ => s.err) ∨
  ∃ code : RejectCode, t = reject code s ∧ (code.isConfig = true ↔ ∃ b h r, i = .init b h r)

theorem ends_reject {i : Instr} {s : State} {code : RejectCode} (hi : ∀ b h r, i ≠ .init b h r)
    (hc : code.isConfig = false) : Ends i s (reject code s) :=
  .inr ⟨code, rfl, by simp [hc], fun ⟨b, h, r, e⟩ => absurd e (hi b h r)⟩

theorem ends_init {b : BitVec 8} {h : BitVec 10} {r : Word} {s t : State} (e : execInit b h r s = .next t) :
    Ends (.init b h r) s t := by
  rcases execInit_cases e with ⟨_, rfl⟩ | ⟨code, hc, rfl⟩
  · exact .inl ⟨rfl, rfl, rfl, rfl, rfl⟩
  · exact .inr ⟨code, rfl, fun _ => ⟨_, _, _, rfl⟩, fun _ => configError_isConfig hc⟩

theorem ends_absorb {d : Byte} {s t : State} (h : execAbsorb d s = .next t) : Ends (.absorb d) s t := by
  rcases execAbsorb_cases h with ⟨_, hb, rfl⟩ | ⟨_, rfl⟩
  · obtain ⟨h1, h2, h3, _⟩ := absorbIfFull_keeps (pushByte d s hb)
    exact .inl ⟨rfl, rfl, h1, h2, h3⟩
  · exact ends_reject (by simp) rfl

theorem ends_final {s t : State} (h : execFinal s = .next t) : Ends .final s t := by
  rcases execFinal_cases h with ⟨_, _, rfl⟩ | ⟨_, rfl⟩
  · left; refine ⟨rfl, rfl, ?_, ?_, ?_⟩ <;> simp
  · exact ends_reject (by simp) rfl

theorem ends_perm {n : Word} {s t : State} (h : execPerm n s = .next t) : Ends (.perm n) s t := by
  rcases execPerm_cases h with ⟨_, rfl⟩ | ⟨_, rfl⟩
  · exact .inl ⟨rfl, rfl, rfl, rfl, rfl⟩
  · exact ends_reject (by simp) rfl

theorem ends_rdstate {i : BitVec 5} {s t : State} (h : execRdstate i s = .next t) : Ends (.rdstate i) s t := by
  rcases execRdstate_cases h with ⟨_, rfl⟩ | ⟨_, rfl⟩
  · exact .inl ⟨rfl, rfl, rfl, rfl, rfl⟩
  · exact ends_reject (by simp) rfl

theorem ends_wrstate {i : BitVec 5} {v : Word} {s t : State} (h : execWrstate i v s = .next t) :
    Ends (.wrstate i v) s t := by
  rcases execWrstate_cases h with ⟨_, rfl⟩ | ⟨_, rfl⟩
  · exact .inl ⟨rfl, rfl, rfl, rfl, rfl⟩
  · exact ends_reject (by simp) rfl

theorem ends_rddigest {k : BitVec 7} {s t : State} (h : execRddigest k s = .next t) : Ends (.rddigest k) s t := by
  rcases execRddigest_cases h with ⟨_, _, rfl⟩ | ⟨_, _, rfl⟩ | ⟨_, rfl⟩
  · exact .inl ⟨rfl, rfl, rfl, rfl, rfl⟩
  · exact ends_reject (by simp) rfl
  · exact ends_reject (by simp) rfl

theorem ends_rdcsr {c : BitVec 8} {s t : State} (h : execRdcsr c s = .next t) : Ends (.rdcsr c) s t := by
  rcases execRdcsr_cases h with ⟨_, _, rfl⟩ | ⟨_, rfl⟩
  · exact .inl ⟨rfl, rfl, rfl, rfl, rfl⟩
  · exact ends_reject (by simp) rfl

/-- Every command that answers a next state ends so. -/
theorem exec_ends {i : Instr} {s t : State} (h : exec i s = .next t) : Ends i s t := by
  cases i with
  | nop => exact .inl (by cases h; exact ⟨rfl, rfl, rfl, rfl, rfl⟩)
  | init b g r => exact ends_init h
  | absorb d => exact ends_absorb h
  | final => exact ends_final h
  | perm n => exact ends_perm h
  | rdstate j => exact ends_rdstate h
  | wrstate j v => exact ends_wrstate h
  | rddigest k => exact ends_rddigest h
  | rdcsr c => exact ends_rdcsr h

end Sys2Proof.Machine
end

