-- ==== Sys2Proof/Laws/PerInstr.lean ====
section
/-! SUPPORT. What holds of every instruction as syntax, one lemma per constructor. -/

namespace Sys2Proof.Laws

/-- The encoded word has a legal opcode and no reserved bit of its format, and opd is 0 where the command ignores it
(R86, R88, R94). -/
def EncodedWord.Statement (i : Instr) : Prop :=
  (encode i).cmd.toNat % 16 < 9 ∧ (encode i).cmd &&& resMask (opcode (encode i).cmd) = 0 ∧
    (i.usesOpd = false → (encode i).opd = 0)

namespace EncodedWord

/-- A field of `n` bits above the opcode leaves every bit from 4 + n up clear. -/
theorem of_field (n : Nat) (hn : n ≤ 28) (d : BitVec n) (op mask : Nat) (ho : op < 9)
    (hm : resMask (BitVec.ofNat 4 op) = BitVec.ofNat 32 mask <<< (4 + n)) :
    (d.setWidth 32 <<< 4 ||| BitVec.ofNat 32 op).toNat % 16 < 9 ∧
      (d.setWidth 32 <<< 4 ||| BitVec.ofNat 32 op) &&&
        resMask (opcode (d.setWidth 32 <<< 4 ||| BitVec.ofNat 32 op)) = 0 := by
  have e := toNat_field n hn d op (by omega)
  have hop : opcode (d.setWidth 32 <<< 4 ||| BitVec.ofNat 32 op) = BitVec.ofNat 4 op := by
    apply BitVec.eq_of_toNat_eq
    rw [opcode_toNat, e, BitVec.toNat_ofNat]
    omega
  refine ⟨by omega, ?_⟩
  rw [hop, hm]
  apply and_mask_eq_zero
  have := d.isLt
  rw [e, Nat.pow_add]
  omega

theorem nop : Statement .nop := by unfold Statement; decide

theorem init (b : BitVec 8) (h : BitVec 10) (r : Word) : Statement (.init b h r) := by
  have e := toNat_init b h
  have hb := b.isLt
  have hh := h.isLt
  have hop : opcode (encode (.init b h r)).cmd = 1 := by
    apply BitVec.eq_of_toNat_eq
    rw [opcode_toNat]
    exact (congrArg (· % 16) e).trans (by simp only [BitVec.reduceToNat]; omega)
  refine ⟨lt_of_eq_of_lt (congrArg (· % 16) e) (by omega), ?_, fun h => nomatch h⟩
  rw [hop]
  exact and_mask_eq_zero 22 0x3FF (lt_of_eq_of_lt e (by omega))

theorem absorb (d : Byte) : Statement (.absorb d) :=
  have h := of_field 8 (by omega) d 2 0xFFFFF (by omega) (by decide)
  ⟨h.1, h.2, fun _ => rfl⟩

theorem final : Statement .final := by unfold Statement; decide

theorem perm (n : Word) : Statement (.perm n) :=
  ⟨show (4#32).toNat % 16 < 9 by decide, show 4#32 &&& resMask (opcode 4#32) = 0 by decide, fun h => nomatch h⟩

theorem rdstate (i : BitVec 5) : Statement (.rdstate i) :=
  have h := of_field 5 (by omega) i 5 0x7FFFFF (by omega) (by decide)
  ⟨h.1, h.2, fun _ => rfl⟩

theorem wrstate (i : BitVec 5) (v : Word) : Statement (.wrstate i v) :=
  have h := of_field 5 (by omega) i 6 0x7FFFFF (by omega) (by decide)
  ⟨h.1, h.2, fun h => nomatch h⟩

theorem rddigest (k : BitVec 7) : Statement (.rddigest k) :=
  have h := of_field 7 (by omega) k 7 0x1FFFFF (by omega) (by decide)
  ⟨h.1, h.2, fun _ => rfl⟩

theorem rdcsr (c : BitVec 8) : Statement (.rdcsr c) :=
  have h := of_field 8 (by omega) c 8 0xFFFFF (by omega) (by decide)
  ⟨h.1, h.2, fun _ => rfl⟩

end EncodedWord

end Sys2Proof.Laws
end

