-- ==== Sys2Proof/Tests/Slice0.lean ====
section
/-! SUPPORT. Tests: the spec's own words and vectors (spec/30_encoding.md R91, spec/95_test_vectors.md), and for every
statement with hypotheses a state that meets them. Each `test_witness_…` shows the hypotheses of the statement it names met
together, and their boundary values. -/

namespace Sys2Proof.Tests

open Sys2Proof Sys2Proof.Machine

/-! ## Small states -/

/-- A state of a computation (r, b, h) in phase `p` with `n` bytes pending. -/
def comp (p : Phase) (r : Word) (b : BitVec 8) (h : BitVec 10) (n : BitVec 8) : State :=
  { State.reset with phase := p, cfgR := r, cfgB := b, cfgH := h, bcount := n }

/-- The same with the words `x` and the bytes `bytes` at the start of BUF. -/
def compWith (p : Phase) (r : Word) (b : BitVec 8) (h : BitVec 10) (n : BitVec 8) (x : Words) (bytes : List Byte) : State :=
  { comp p r b h n with x := x, buf := Vector.ofFn fun j => (bytes[j.val]?).getD 0 }

/-- The response of a command. -/
def answer (o : Host.Outcome State Fault Refusal) : Option (Bool × Word) :=
  match o with
  | .next t => if t.rspValid then some (t.rspOk, t.rspData) else none
  | .fault _ => none
  | .refused _ => none

/-- A state word after a command. -/
def wordAfter (i : Fin 32) (o : Host.Outcome State Fault Refusal) : Option Word :=
  match o with
  | .next t => some t.x[i]
  | .fault _ => none
  | .refused _ => none

/-- A line of assembly text, as its bytes. -/
def bytesOf (line : String) : List Nat := line.toList.map Char.toNat

/-! ## Well-formedness: a term each check refuses, and the largest it takes (R94, R95) -/

theorem test_wf_init_r : (AsmLine.init (2 ^ 32) 1 8).wellFormed = false := by decide
theorem test_wf_init_b : (AsmLine.init 1 256 8).wellFormed = false := by decide
theorem test_wf_init_h : (AsmLine.init 1 1 1024).wellFormed = false := by decide
theorem test_wf_absorb : (AsmLine.absorb 256).wellFormed = false := by decide
theorem test_wf_perm : (AsmLine.perm (2 ^ 32)).wellFormed = false := by decide
theorem test_wf_rdstate : (AsmLine.rdstate 32).wellFormed = false := by decide
theorem test_wf_wrstate_i : (AsmLine.wrstate 32 0).wellFormed = false := by decide
theorem test_wf_wrstate_v : (AsmLine.wrstate 0 (2 ^ 32)).wellFormed = false := by decide
theorem test_wf_rddigest : (AsmLine.rddigest 128).wellFormed = false := by decide
theorem test_wf_rdcsr : (AsmLine.rdcsr 256).wellFormed = false := by decide
theorem test_wf_word_cmd : (AsmLine.word (2 ^ 32) 0).wellFormed = false := by decide
theorem test_wf_word_opd : (AsmLine.word 0 (2 ^ 32)).wellFormed = false := by decide
/-- Values that fit are taken, legal or not (R94). -/
theorem test_wf_largest :
    (AsmLine.init 0 255 1023).wellFormed ∧ (AsmLine.absorb 255).wellFormed ∧ (AsmLine.perm (2 ^ 32 - 1)).wellFormed ∧
      (AsmLine.wrstate 31 (2 ^ 32 - 1)).wellFormed ∧ (AsmLine.rddigest 127).wellFormed ∧
      (AsmLine.rdcsr 255).wellFormed := by decide

/-! ## Decoding: words written out from R83 and R86, bit 31 on the left -/

theorem test_decode_nop :
    decode ⟨0b0000000000000000000000000000_0000, 0xFFFFFFFF⟩ = .ok .nop := by decide
theorem test_decode_init :
    decode ⟨0b0000000000_0100000000_00100000_0001, 16⟩ = .ok (.init 32 256 16) := by decide
theorem test_decode_absorb :
    decode ⟨0b00000000000000000000_01001000_0010, 0⟩ = .ok (.absorb 0x48) := by decide
theorem test_decode_final :
    decode ⟨0b0000000000000000000000000000_0011, 1⟩ = .ok .final := by decide
theorem test_decode_perm :
    decode ⟨0b0000000000000000000000000000_0100, 7⟩ = .ok (.perm 7) := by decide
theorem test_decode_rdstate :
    decode ⟨0b00000000000000000000000_10000_0101, 0⟩ = .ok (.rdstate 16) := by decide
theorem test_decode_wrstate :
    decode ⟨0b00000000000000000000000_11111_0110, 0xDEADBEEF⟩ = .ok (.wrstate 31 0xDEADBEEF) := by decide
theorem test_decode_rddigest :
    decode ⟨0b000000000000000000000_0011111_0111, 0⟩ = .ok (.rddigest 31) := by decide
theorem test_decode_rdcsr :
    decode ⟨0b00000000000000000000_00000011_1000, 0⟩ = .ok (.rdcsr 3) := by decide

/-- Every field of INIT at its ends: H = 1023 and B = 0, H = 0 and B = 255 (R84). -/
theorem test_decode_init_ends :
    decode ⟨0b0000000000_1111111111_00000000_0001, 0⟩ = .ok (.init 0 1023 0) ∧
      decode ⟨0b0000000000_0000000000_11111111_0001, 0xFFFFFFFF⟩ = .ok (.init 255 0 0xFFFFFFFF) := by decide

/-- The lowest reserved bit of each format (L2.9). -/
theorem test_decode_reserved :
    ([0x00000010, 0x00400001, 0x00001002, 0x00000013, 0x00000014, 0x00000205, 0x00000206, 0x00000807, 0x00001008,
      0x80000000] : List Word).all (fun w => decide (decode ⟨w, 0⟩ = .error .reserved)) = true := by decide

/-- The illegal opcodes; ILLEGAL comes before RESERVED (L2.9). -/
theorem test_decode_illegal :
    ([0x9, 0xA, 0xB, 0xC, 0xD, 0xE, 0xF, 0xFFFFFFFF] : List Word).all
      (fun w => decide (decode ⟨w, 0⟩ = .error .illegal)) = true := by decide

/-- The encoder on the commands of L2.2, L2.8 and L2.9. -/
theorem test_encode :
    encode (.init 128 8 1) = ⟨0x00008801, 1⟩ ∧ encode (.init 7 64 3) = ⟨0x00040071, 3⟩ ∧
      encode (.wrstate 5 0xDEADBEEF) = ⟨0x00000056, 0xDEADBEEF⟩ ∧ encode (.rdcsr 255) = ⟨0x00000FF8, 0⟩ ∧
      encode (.absorb 0x6F) = ⟨0x000006F2, 0⟩ ∧ encode (.rddigest 32) = ⟨0x00000207, 0⟩ := by decide

theorem test_decodeTableWord :
    decodeTableWord 32 0x00100011 = some (.init 1 256 0) ∧ decodeTableWord 64 (8 * 2 ^ 32 + 0x00100011) =
      some (.init 1 256 8) ∧ decodeTableWord 32 0x9 = none := by decide

/-- The instruction stored by `withFetchWord` is the one the next step runs. -/
theorem test_withFetchWord :
    answer (step (State.reset.withFetchWord 32 0x00000000)) = some (true, 0x00000000) ∧
      answer (step (State.reset.withFetchWord 32 0x00000003)) = some (false, 0x00000060) := by decide

/-! ## Assembly text (R94 to R96) -/

theorem test_parse_init :
    parseLine (bytesOf "  INIT 0x10, 32,256 ; Hello") = some (some (.line (.init 16 32 256))) := by decide
theorem test_parse_names :
    parseLine (bytesOf "rdcsr cfg_h") = some (some (.line (.rdcsr 3))) ∧
      parseLine (bytesOf "rdstatus") = some (some .rdstatus) ∧ parseLine (bytesOf "; only a comment") = some none := by
  decide
theorem test_parse_messages :
    parseLine (bytesOf "absorbs \"Hi;\"") = some (some (.absorbs [0x48, 0x69, 0x3B])) ∧
      parseLine (bytesOf "absorbs 0x41, 0x42") = some (some (.absorbs [0x41, 0x42])) ∧
      parseLine (bytesOf "hash256 16, 32, \"\"") = some (some (.hash256 16 32 [])) := by decide
theorem test_parse_refused :
    parseLine (bytesOf "init 1, 2") = none ∧ parseLine (bytesOf "jump 3") = none ∧
      parseLine (bytesOf "perm 0x") = none := by decide
/-- Encoded, legal or not; refused where it does not fit (R94). -/
theorem test_assemble :
    assemble (.line (.init 1 129 12)) = some [⟨0x0000C811, 1⟩] ∧ assemble (.line (.init 1 256 8)) = none ∧
      assemble (.line (.word 0xFFFFFFFF 5)) = some [⟨0xFFFFFFFF, 5⟩] := by decide
/-- `hash 1, 1, 8, "A"` and `iv` (R96). -/
theorem test_expand :
    expand (.hash 1 1 8 [0x41]) = [.init 1 1 8, .absorb 0x41, .final, .rddigest 0] ∧
      (expand (.iv 1 1 8)).length = 33 ∧ (expand (.hash512 1 1 [])).length = 66 := by decide

/-! ## The round (V1, L2.1) -/

/-- X[i] = i. -/
def countUp : Words := Vector.ofFn fun i => BitVec.ofNat 32 i.val

/-- V1 after step 4, from X[0] = 1: hi[0] = 1, hi[2] = 1, hi[8] = 0x80, and nothing else. -/
theorem test_round_step4 :
    (step4 (step3 (step2 (step1 (loadTemps ((Vector.replicate 32 0).set 0 1)))))).hi =
      #v[1, 0, 1, 0, 0, 0, 0, 0, 0x80, 0, 0, 0, 0, 0, 0, 0] := by decide +kernel

/-- L2.1 vector 6: the top bit of X[31]. -/
theorem test_round_topBit :
    oneRound ((Vector.replicate 32 0).set 31 0x80000000) =
      #v[0, 0, 0, 0, 0, 0, 0, 0, 0, 0, 0, 0x00000400, 0, 0x80000000, 0, 0x80000000,
        0, 0, 0, 0, 0, 0, 0, 0, 0, 0, 0, 0, 0x80000000, 0, 0x80000000, 0] := by decide +kernel

/-- The two other readings of the round agree with it on X[i] = i (R110, R112). -/
theorem test_round_readings :
    roundLoops (lanes fun _ => 0xFFFFFFFF) countUp = oneRound countUp ∧ roundClosed countUp = oneRound countUp := by
  decide +kernel

/-! ## The commands (L2, L3) -/

/-- NOP in ABSORBING with one byte pending (L2.8). -/
theorem test_nop : answer (exec .nop (comp .absorbing 1 4 8 1)) = some (true, 0x00000102) := by decide
/-- NOP keeps ERR (R233). -/
theorem test_nop_err : answer (exec .nop { comp .inited 1 1 8 0 with err := 7 }) = some (true, 0x00000071) := by decide

/-- The first word of IV(1, 1, 8) (L2.2). -/
theorem test_init_iv : wordAfter 0 (exec (.init 1 8 1) State.reset) = some 0x9E0D9E7B := by decide +kernel
/-- The parameter table of L2.2, its rejected rows, after reset. -/
theorem test_init_rejected :
    answer (exec (.init 1 256 0) State.reset) = some (false, 0x00000010) ∧
      answer (exec (.init 0 256 1) State.reset) = some (false, 0x00000020) ∧
      answer (exec (.init 129 256 1) State.reset) = some (false, 0x00000020) ∧
      answer (exec (.init 1 12 1) State.reset) = some (false, 0x00000030) ∧
      answer (exec (.init 1 520 1) State.reset) = some (false, 0x00000030) ∧
      answer (exec (.init 1 0 1) State.reset) = some (false, 0x00000030) ∧
      answer (exec (.init 0 7 0) State.reset) = some (false, 0x00000010) ∧
      answer (exec (.init 4 32 0) (comp .absorbing 1 4 32 3)) = some (false, 0x00000310) := by decide

/-- IV(2, 3, 24) (L2.2). -/
def iv2_3_24 : Words :=
  #v[0x80938D90, 0x98A8E156, 0x64AA441D, 0xC20494A9, 0x654D7E28, 0x611EFE74, 0x51F14F04, 0xB295B493,
    0xD5060746, 0x3366247E, 0x771E358C, 0x4FF8FF18, 0xAAB6234A, 0x078BAFA7, 0xE1074FD0, 0xCF91E6EB,
    0x3FE30B2E, 0xE826B8D5, 0xC4AB6292, 0x43BCC03B, 0x2A1ADB32, 0x5ED53C31, 0x5380B4D1, 0xD89BAB38,
    0x0442FD04, 0xC9F0A053, 0x2568C7FB, 0xF205BDEB, 0x114A821E, 0xD3FD8146, 0x292321F8, 0xED65478F]

/-- The third ABSORB of P5 completes the block 61 62 63: the words after it are those P5 gives. -/
theorem test_absorb_block :
    wordAfter 0 (exec (.absorb 0x63) (compWith .absorbing 2 3 24 2 iv2_3_24 [0x61, 0x62])) = some 0x0AA5EB4A ∧
      wordAfter 31 (exec (.absorb 0x63) (compWith .absorbing 2 3 24 2 iv2_3_24 [0x61, 0x62])) = some 0xACB8D8F5 := by
  decide +kernel
/-- A byte that does not complete the block, and a phase that takes none (L2.5). -/
theorem test_absorb_answers :
    answer (exec (.absorb 0x01) (comp .inited 3 7 64 0)) = some (true, 0x00000102) ∧
      answer (exec (.absorb 0x00) State.reset) = some (false, 0x00000060) ∧
      answer (exec (.absorb 0x00) (comp .output 1 1 256 0)) = some (false, 0x00000063) := by decide

/-- IV(1, 1, 256) (L2.2). -/
def iv1_1_256 : Words :=
  #v[0xAEA7A0EC, 0x543FECEC, 0xCA9119E9, 0x59257DD9, 0x319311F6, 0xBD8C09EC, 0xBC8A0FD5, 0xAFCB6F27,
    0xC66A4B2B, 0x9BEE3A5B, 0xD6C28904, 0x50FA60D2, 0x917748D0, 0xC02EA991, 0x2C99B4D6, 0x5B31862D,
    0x7F5C2698, 0x09FEBEAB, 0x4C39C52B, 0x7AF2ACE6, 0xD70FBB3E, 0x8132A68E, 0xAC8445AB, 0x5C9C610D,
    0xEFC26A3A, 0x3DADA9A3, 0xAAFD294F, 0x2A5CBAC7, 0xD5B38932, 0xA75D181D, 0x8617F7B3, 0xA18C3853]

/-- FINAL of P1, the source's `hash(1,1,256,"")` (L1.3): X[0] gives the digest's first bytes 80 f7 2e 07. -/
theorem test_final : wordAfter 0 (exec .final (compWith .inited 1 1 256 0 iv1_1_256 [])) = some 0x072EF780 := by
  decide +kernel
/-- FINAL in OUTPUT and after reset (L2.6, L2.9). -/
theorem test_final_rejected :
    answer (exec .final (comp .output 1 1 256 0)) = some (false, 0x00000063) ∧
      answer (exec .final State.reset) = some (false, 0x00000060) := by decide

/-- L2.1 vector 3, and P3: words 0 and 31 after `perm 1` on X[i] = i. -/
theorem test_perm :
    wordAfter 0 (exec (.perm 1) (compWith .inited 1 1 8 0 countUp [])) = some 0x0030C424 ∧
      wordAfter 31 (exec (.perm 1) (compWith .inited 1 1 8 0 countUp [])) = some 0x00000354 := by decide +kernel
/-- `perm 0` leaves X unchanged; OUTPUT rejects PERM (L2.1). -/
theorem test_perm_zero :
    wordAfter 9 (exec (.perm 0) (compWith .inited 1 1 8 0 countUp [])) = some 9 ∧
      answer (exec (.perm 0) (comp .inited 1 1 8 0)) = some (true, 0x00000001) ∧
      answer (exec (.perm 1) (comp .output 1 1 8 0)) = some (false, 0x00000063) := by decide +kernel

theorem test_rdstate :
    answer (exec (.rdstate 5) (compWith .output 1 1 8 0 countUp [])) = some (true, 5) ∧
      answer (exec (.rdstate 0) State.reset) = some (false, 0x00000060) := by decide +kernel
/-- L2.8: one word is written; OUTPUT rejects WRSTATE. -/
theorem test_wrstate :
    wordAfter 5 (exec (.wrstate 5 0xDEADBEEF) (comp .inited 1 1 8 0)) = some 0xDEADBEEF ∧
      wordAfter 4 (exec (.wrstate 5 0xDEADBEEF) (comp .inited 1 1 8 0)) = some 0 ∧
      answer (exec (.wrstate 0 1) (comp .output 1 1 8 0)) = some (false, 0x00000063) := by decide +kernel
/-- P1's digest bytes 0 and 3 from its final word X[0]; P6's last byte. -/
theorem test_rddigest :
    answer (exec (.rddigest 0) (compWith .output 1 1 256 0 (iv1_1_256.set 0 0x072EF780) [])) = some (true, 0x80) ∧
      answer (exec (.rddigest 3) (compWith .output 1 1 256 0 (iv1_1_256.set 0 0x072EF780) [])) = some (true, 0x07) := by
  decide +kernel
/-- The phase check comes before the index check (L2.6). -/
theorem test_rddigest_rejected :
    answer (exec (.rddigest 127) (comp .inited 1 1 8 0)) = some (false, 0x00000061) ∧
      answer (exec (.rddigest 1) (comp .output 1 1 8 0)) = some (false, 0x00000073) := by decide
/-- L2.8, after `init 3, 7, 64`. -/
theorem test_rdcsr :
    answer (exec (.rdcsr 0) (comp .inited 3 7 64 0)) = some (true, 0x00000001) ∧
      answer (exec (.rdcsr 1) (comp .inited 3 7 64 0)) = some (true, 0x00000003) ∧
      answer (exec (.rdcsr 2) (comp .inited 3 7 64 0)) = some (true, 0x00000007) ∧
      answer (exec (.rdcsr 3) (comp .inited 3 7 64 0)) = some (true, 0x00000040) ∧
      answer (exec (.rdcsr 255) (comp .inited 3 7 64 0)) = some (false, 0x00000071) := by decide

/-- Reset of a computation in OUTPUT: the registers R290 sets. -/
theorem test_reset :
    (match step { comp .output 1 1 256 0 with err := 5, stream := [.reset] } with
      | .next t => decide (t.status = 0 ∧ t.cfgR = 0 ∧ t.cfgB = 0 ∧ t.cfgH = 0 ∧ t.stream = [])
      | _ => false) = true := by decide

/-- The padding table of L2.3. -/
theorem test_padZeros :
    Pipeline.padZeros 0 1 = 0 ∧ Pipeline.padZeros 5 32 = 26 ∧ Pipeline.padZeros 31 32 = 0 ∧
      Pipeline.padZeros 32 32 = 31 ∧ Pipeline.padZeros 127 128 = 0 ∧ Pipeline.padZeros 128 128 = 127 := by decide
/-- The words of L2.4: "abcde" as a block of 5. -/
theorem test_wordOf :
    Pipeline.wordOf [0x61, 0x62, 0x63, 0x64, 0x65] 0 = 0x64636261 ∧
      Pipeline.wordOf [0x61, 0x62, 0x63, 0x64, 0x65] 1 = 0x00000065 ∧
      blockWord 5 (compWith .inited 1 5 8 0 iv1_1_256 [0x61, 0x62, 0x63, 0x64, 0x65, 0xFF]).buf 1 = 0x00000065 := by
  decide +kernel
/-- The IV literal of L1.6 in the two's-complement reading (R12), and L1.3's first bytes as the host renders them (R13). -/
theorem test_rendering :
    signedReading 0x830B2BD5 = -2096419883 ∧ signedReading 0x273D616F = 658334063 ∧
      renderHex [0x80, 0xF7, 0x2E, 0x07] = ['8', '0', 'f', '7', '2', 'e', '0', '7'] := by decide

/-! ## Witnesses -/

theorem test_witness_RotlIsCircularRotation :
    (0 < 1 ∧ 1 < 32 ∧ rotl 0x80000001 1 = 0x00000003) ∧ (0 < 31 ∧ 31 < 32 ∧ rotl 0x80000001 31 = 0xC0000000) ∧
      (0 < 7 ∧ 7 < 32 ∧ (31 : Nat) < 32) := by decide

theorem test_witness_PhaseTransitions :
    (∃ t, exec (.init 1 8 1) State.reset = .next t ∧ t.rspOk = true) ∧
      (∃ t, exec (.init 0 8 1) State.reset = .next t ∧ t.rspOk = false) ∧
      (∃ t, exec (.absorb 0) (comp .inited 1 2 8 0) = .next t ∧ t.rspOk = true) ∧
      (∃ t, exec (.absorb 0) State.reset = .next t ∧ t.rspOk = false) ∧
      (∃ t, exec .final (comp .absorbing 1 2 8 1) = .next t ∧ t.rspOk = true) ∧
      (∃ t, exec .final (comp .output 1 2 8 0) = .next t ∧ t.rspOk = false) ∧
      (∃ t, exec (.perm 1) (comp .inited 1 2 8 0) = .next t ∧ (∀ b h r, Instr.perm 1 ≠ .init b h r) ∧
        (∀ d, Instr.perm 1 ≠ .absorb d) ∧ Instr.perm 1 ≠ .final) ∧
      (∃ t, decode ⟨0x9, 0⟩ = .error .illegal ∧ issue ⟨0x9, 0⟩ State.reset = .next t) :=
  ⟨⟨_, rfl, rfl⟩, ⟨_, rfl, rfl⟩, ⟨_, rfl, rfl⟩, ⟨_, rfl, rfl⟩, ⟨_, rfl, rfl⟩, ⟨_, rfl, rfl⟩,
    ⟨_, rfl, nofun, nofun, nofun⟩, ⟨_, rfl, rfl⟩⟩

theorem test_witness_ErrIsWrittenByRejectionAndInit :
    (∃ t, issue ⟨0x00008011, 1⟩ State.reset = .next t ∧ t.rspOk = true) ∧
      (∃ t, issue ⟨0x3, 0⟩ State.reset = .next t ∧ t.rspOk = false) :=
  ⟨⟨_, rfl, rfl⟩, ⟨_, rfl, rfl⟩⟩

theorem test_witness_WhichCommandsWriteWords :
    (∃ t, exec .nop State.reset = .next t) ∧ (∃ t, exec (.rdcsr 1) State.reset = .next t) ∧
      (∃ t, exec (.rdstate 31) (comp .output 1 1 8 0) = .next t) ∧
      (∃ t, exec (.rddigest 0) (comp .output 1 1 8 0) = .next t) ∧
      (∃ t, exec (.absorb 0) (comp .inited 1 2 8 0) = .next t ∧
        (comp .inited 1 2 8 0).bcount + 1 ≠ (comp .inited 1 2 8 0).cfgB) ∧
      (∃ t, exec (.wrstate 31 5) (comp .inited 1 2 8 0) = .next t ∧ (30 : Fin 32).val ≠ (31 : BitVec 5).toNat) ∧
      (∃ t, exec .final State.reset = .next t ∧ t.rspOk = false) :=
  ⟨⟨_, rfl⟩, ⟨_, rfl⟩, ⟨_, rfl⟩, ⟨_, rfl⟩, ⟨_, rfl, by decide⟩, ⟨_, rfl, by decide⟩, ⟨_, rfl, rfl⟩⟩

theorem test_witness_DecodeOfEncode :
    ((Instr.perm 0xFFFFFFFF).usesOpd = true ∧ (0xFFFFFFFF : Word) = (encode (.perm 0xFFFFFFFF)).opd) ∧
      (Instr.final.usesOpd = false ∧ (0xFFFFFFFF : Word) ≠ (encode .final).opd) := by decide

theorem test_witness_EncodeOfDecode :
    decode ⟨0x003FFFF1, 5⟩ = .ok (.init 255 1023 5) ∧ (Instr.init 255 1023 5).usesOpd = true ∧
      decode ⟨0x00000FF2, 5⟩ = .ok (.absorb 255) ∧ (Instr.absorb 255).usesOpd = false := by decide

theorem test_witness_AssemblerEncodes :
    (AsmLine.rdstate 31).wellFormed = true ∧ (∀ c o, AsmLine.rdstate 31 ≠ .word c o) ∧
      (AsmLine.rdstate 32).wellFormed = false ∧ (0xFFFFFFFF < 2 ^ 32 ∧ 2 ^ 32 ≤ 0x100000000) :=
  ⟨rfl, nofun, rfl, by decide⟩

theorem test_witness_StepRunsTheDecodedInstruction :
    ({ State.reset with stream := [.command ⟨0x3, 9⟩] } : State).stream = .command ⟨0x3, 9⟩ :: [] ∧
      decode ⟨0x3, 9⟩ = .ok .final ∧ decode ⟨0xF, 0⟩ = .error .illegal ∧ decode ⟨0x13, 0⟩ = .error .reserved ∧
      ({ State.reset with stream := [.reset] } : State).stream = .reset :: [] ∧
      ({ State.reset with stream := [.resetDuring ⟨0x3, 9⟩] } : State).stream = .resetDuring ⟨0x3, 9⟩ :: [] ∧
      State.reset.stream = [] := by decide

theorem test_witness_CommandTakesItsLatency :
    ∃ (m : Clocked) (p : PortInputs) (rest : List PortInputs) (t : State),
      m.inFlight = none ∧ p.rst = false ∧ p.cmdValid = true ∧ (∀ q ∈ rest, q.rst = false) ∧
        rest.length = cmdLatency p.command m.core ∧ issue p.command (idle m.core) = .next t :=
  ⟨⟨State.reset, none⟩, ⟨false, true, 0, 0⟩,
    List.replicate (cmdLatency ⟨0, 0⟩ State.reset) ⟨false, false, 0, 0⟩, accept (idle State.reset), rfl, rfl, rfl,
    fun _ hq => List.eq_of_mem_replicate hq ▸ rfl, List.length_replicate, rfl⟩

/-- A reset with a command in progress leaves none (R291); with the last edge of a command its response is there (R80). -/
theorem test_edge :
    (match edge ⟨true, true, 0x3, 0⟩ ⟨comp .inited 1 1 8 0, some ⟨⟨0x3, 0⟩, 0⟩⟩ with
      | .next m => decide (m.inFlight = none ∧ m.core.phase = .uninit ∧ m.core.rspValid = false)
      | _ => false) = true ∧
    (match edge ⟨false, false, 0, 0⟩ ⟨comp .inited 1 1 8 0, some ⟨⟨0x0, 0⟩, 0⟩⟩ with
      | .next m => decide (m.ready = true ∧ m.core.rspValid = true ∧ m.core.rspData = 0x00000001)
      | _ => false) = true := by decide

theorem test_witness_ResponseOfEveryCommand :
    (∃ t, issue ⟨0x5, 0⟩ (comp .output 1 1 8 0) = .next t ∧ t.rspOk = true) ∧
      (∃ t, issue ⟨0x5, 0⟩ State.reset = .next t ∧ t.rspOk = false) ∧
      (∃ t, issue ⟨0x0, 0⟩ State.reset = .next t ∧ t.rspOk = true) :=
  ⟨⟨_, rfl, rfl⟩, ⟨_, rfl, rfl⟩, ⟨_, rfl, rfl⟩⟩

/-- The smallest and the largest legal parameters; also those of every statement about a computation. -/
theorem test_witness_InitCompletes :
    Pipeline.Legal (1 : Word).toNat (1 : BitVec 8).toNat (8 : BitVec 10).toNat ∧
      Pipeline.Legal (0xFFFFFFFF : Word).toNat (128 : BitVec 8).toNat (512 : BitVec 10).toNat := by
  unfold Pipeline.Legal; decide

theorem test_witness_InitCompletes_rejections :
    (0 : Word).toNat < 1 ∧ 1 ≤ (1 : Word).toNat ∧ (0 : BitVec 8).toNat < 1 ∧ 128 < (129 : BitVec 8).toNat ∧
      1 ≤ (1 : BitVec 8).toNat ∧ (128 : BitVec 8).toNat ≤ 128 ∧ (7 : BitVec 10).toNat < 8 ∧
      512 < (513 : BitVec 10).toNat ∧ 512 < (520 : BitVec 10).toNat ∧ (12 : BitVec 10).toNat % 8 ≠ 0 := by decide

theorem test_witness_AbsorbCompletes :
    ((comp .inited 1 2 8 0).bcount.toNat < 128 ∧ (comp .inited 1 2 8 0).phase = .inited ∧
        (comp .inited 1 2 8 0).bcount.toNat + 1 ≠ (comp .inited 1 2 8 0).cfgB.toNat) ∧
      ((comp .absorbing 1 128 8 126).bcount.toNat < 128 ∧ (comp .absorbing 1 128 8 126).phase = .absorbing ∧
        (comp .absorbing 1 128 8 126).bcount.toNat + 1 ≠ (comp .absorbing 1 128 8 126).cfgB.toNat) := by decide

theorem test_witness_AbsorbCompletes_lastByte :
    ((comp .inited 1 1 8 0).bcount.toNat < 128 ∧ (comp .inited 1 1 8 0).phase = .inited ∧
        (comp .inited 1 1 8 0).bcount.toNat + 1 = (comp .inited 1 1 8 0).cfgB.toNat) ∧
      ((comp .absorbing 1 128 8 127).bcount.toNat < 128 ∧ (comp .absorbing 1 128 8 127).phase = .absorbing ∧
        (comp .absorbing 1 128 8 127).bcount.toNat + 1 = (comp .absorbing 1 128 8 127).cfgB.toNat) := by decide

theorem test_witness_FinalCompletes :
    ((comp .inited 1 1 8 0).phase = .inited ∧ (comp .inited 1 1 8 0).bcount.toNat < 128 ∧
        (comp .inited 1 1 8 0).cfgB.toNat ≤ 128) ∧
      ((comp .absorbing 1 128 8 127).phase = .absorbing ∧ (comp .absorbing 1 128 8 127).bcount.toNat < 128 ∧
        (comp .absorbing 1 128 8 127).cfgB.toNat ≤ 128) := by decide

theorem test_witness_PermAndWrstateComplete :
    (comp .inited 1 1 8 0).phase = .inited ∧ (comp .absorbing 1 2 8 1).phase = .absorbing := by decide

/-- The phases in which ABSORB, FINAL, PERM, WRSTATE, RDSTATE and RDDIGEST are rejected. -/
theorem test_witness_phasesRejected :
    State.reset.phase = .uninit ∧ (comp .output 1 1 8 0).phase = .output ∧ (comp .inited 1 1 8 0).phase ≠ .output := by
  decide

/-- One word for each opcode with the lowest reserved bit of its format set, and one with bit 31 set. -/
theorem test_witness_RejectsReserved :
    ((0x10 : Word).toNat % 16 = 0x0 ∧ (0x10 : Word).toNat / 2 ^ 4 ≠ 0) ∧
      ((0x00400001 : Word).toNat % 16 = 0x1 ∧ (0x00400001 : Word).toNat / 2 ^ 22 ≠ 0) ∧
      ((0x00001002 : Word).toNat % 16 = 0x2 ∧ (0x00001002 : Word).toNat / 2 ^ 12 ≠ 0) ∧
      ((0x13 : Word).toNat % 16 = 0x3 ∧ (0x13 : Word).toNat / 2 ^ 4 ≠ 0) ∧
      ((0x14 : Word).toNat % 16 = 0x4 ∧ (0x14 : Word).toNat / 2 ^ 4 ≠ 0) ∧
      ((0x205 : Word).toNat % 16 = 0x5 ∧ (0x205 : Word).toNat / 2 ^ 9 ≠ 0) ∧
      ((0x206 : Word).toNat % 16 = 0x6 ∧ (0x206 : Word).toNat / 2 ^ 9 ≠ 0) ∧
      ((0x807 : Word).toNat % 16 = 0x7 ∧ (0x807 : Word).toNat / 2 ^ 11 ≠ 0) ∧
      ((0x80000008 : Word).toNat % 16 = 0x8 ∧ (0x80000008 : Word).toNat / 2 ^ 12 ≠ 0) := by decide

theorem test_witness_StatusLayout :
    (∃ t, issue ⟨0x3, 0⟩ State.reset = .next t ∧ t.rspOk = false) ∧
      (∃ t, exec (.perm 1) (comp .inited 1 1 8 0) = .next t ∧ (∀ j, Instr.perm 1 ≠ .rdstate j) ∧
        (∀ k, Instr.perm 1 ≠ .rddigest k) ∧ (∀ c, Instr.perm 1 ≠ .rdcsr c)) :=
  ⟨⟨_, rfl, rfl⟩, ⟨_, rfl, nofun, nofun, nofun⟩⟩

theorem test_witness_RdstateCompletes :
    (comp .inited 1 1 8 0).phase ≠ .uninit ∧ (comp .output 1 1 8 0).phase ≠ .uninit := by decide

theorem test_witness_RddigestCompletes :
    ((comp .output 1 1 8 0).phase = .output ∧ (0 : BitVec 7).toNat < (comp .output 1 1 8 0).cfgH.toNat / 8) ∧
      ((comp .output 1 1 512 0).phase = .output ∧ (63 : BitVec 7).toNat < (comp .output 1 1 512 0).cfgH.toNat / 8) := by
  decide

theorem test_witness_RdcsrCompletes :
    4 ≤ (4 : BitVec 8).toNat ∧ 4 ≤ (255 : BitVec 8).toNat ∧ ¬ 4 ≤ (3 : BitVec 8).toNat := by decide

theorem test_witness_ReadsHaveNoSideEffects :
    (∃ t, exec (.rddigest 0) (comp .output 1 1 8 0) = .next t ∧ t.rspOk = true) ∧
      (∃ t, exec (.rdstate 31) (comp .inited 1 1 8 0) = .next t ∧ t.rspOk = true) ∧
      (∃ t, exec (.rdcsr 3) State.reset = .next t ∧ t.rspOk = true) ∧
      (∃ t, exec .nop State.reset = .next t ∧ t.rspOk = true) :=
  ⟨⟨_, rfl, rfl⟩, ⟨_, rfl, rfl⟩, ⟨_, rfl, rfl⟩, ⟨_, rfl, rfl⟩⟩

theorem test_witness_WritersLeaveTheRest :
    (∃ t, exec (.perm 1) (comp .inited 1 1 8 0) = .next t ∧ t.rspOk = true) ∧
      (∃ t, exec (.wrstate 0 1) (comp .inited 1 1 8 0) = .next t ∧ t.rspOk = true) ∧
      (∃ t, exec (.absorb 7) (comp .absorbing 1 3 8 1) = .next t ∧ t.rspOk = true ∧
        (2 : Fin 128).val ≠ (comp .absorbing 1 3 8 1).bcount.toNat) ∧
      (∃ t, exec .final (comp .absorbing 1 3 8 1) = .next t ∧ t.rspOk = true ∧
        (0 : Fin 128).val < (comp .absorbing 1 3 8 1).bcount.toNat ∧
        (comp .absorbing 1 3 8 1).cfgB.toNat ≤ (3 : Fin 128).val ∧
        (3 : Fin 128).val ≠ (comp .absorbing 1 3 8 1).bcount.toNat) ∧
      (∃ t, exec (.init 1 8 1) State.reset = .next t) :=
  ⟨⟨_, rfl, rfl⟩, ⟨_, rfl, rfl⟩, ⟨_, rfl, rfl, by decide⟩, ⟨_, rfl, rfl, by decide, by decide, by decide⟩, ⟨_, rfl⟩⟩

theorem test_witness_DecodeRejections :
    9 ≤ (0x9 : Word).toNat % 16 ∧ 9 ≤ (0xFFFFFFFF : Word).toNat % 16 ∧
      ((0x10 : Word).toNat % 16 = 0 ∧ (0x10 : Word).extractLsb' 4 28 ≠ 0) ∧
      ((0x80000003 : Word).toNat % 16 = 3 ∧ (0x80000003 : Word).extractLsb' 4 28 ≠ 0) ∧
      ((0x14 : Word).toNat % 16 = 4 ∧ (0x14 : Word).extractLsb' 4 28 ≠ 0) ∧
      ((0x00400001 : Word).toNat % 16 = 1 ∧ (0x00400001 : Word).extractLsb' 22 10 ≠ 0) ∧
      ((0x00001002 : Word).toNat % 16 = 2 ∧ (0x00001002 : Word).extractLsb' 12 20 ≠ 0) ∧
      ((0x00001008 : Word).toNat % 16 = 8 ∧ (0x00001008 : Word).extractLsb' 12 20 ≠ 0) ∧
      ((0x00000205 : Word).toNat % 16 = 5 ∧ (0x00000205 : Word).extractLsb' 9 23 ≠ 0) ∧
      ((0x00000206 : Word).toNat % 16 = 6 ∧ (0x00000206 : Word).extractLsb' 9 23 ≠ 0) ∧
      ((0x00000807 : Word).toNat % 16 = 7 ∧ (0x00000807 : Word).extractLsb' 11 21 ≠ 0) := by decide

theorem test_witness_PhaseRejections :
    permitted .final (comp .output 1 1 8 0).phase = false ∧ permitted (.rddigest 0) (comp .absorbing 1 2 8 1).phase = false ∧
      (∃ t, permitted (.rddigest 1) (comp .output 1 1 8 0).phase = true ∧
        exec (.rddigest 1) (comp .output 1 1 8 0) = .next t ∧ t.rspOk = false) :=
  ⟨rfl, rfl, ⟨_, rfl, rfl, rfl⟩⟩

theorem test_witness_IndexRejections :
    ((comp .output 1 1 8 0).phase = .output ∧ (comp .output 1 1 8 0).cfgH.toNat / 8 ≤ (1 : BitVec 7).toNat) ∧
      ((comp .output 1 1 512 0).phase = .output ∧ (comp .output 1 1 512 0).cfgH.toNat / 8 ≤ (64 : BitVec 7).toNat) ∧
      4 ≤ (4 : BitVec 8).toNat ∧ (∃ t, exec (.rdstate 0) State.reset = .next t ∧ t.rspOk = false) ∧
      (∃ t, exec (.wrstate 0 0) State.reset = .next t ∧ t.rspOk = false) :=
  ⟨by decide, by decide, by decide, ⟨_, rfl, rfl⟩, ⟨_, rfl, rfl⟩⟩

theorem test_witness_RejectionPriority :
    9 ≤ (0xF : Word).toNat % 16 ∧ ((0x205 : Word).toNat % 16 < 9 ∧ decode ⟨0x205, 0⟩ = .error .reserved) ∧
      decode ⟨0x00007001, 0⟩ = .ok (.init 0 7 0) ∧ decode ⟨0x000007F7, 0⟩ = .ok (.rddigest 127) ∧
      (∀ b h r, Instr.rddigest 127 ≠ .init b h r) :=
  ⟨by decide, by decide, by decide, by decide, nofun⟩

theorem test_witness_ErrPersists :
    (∃ t, exec .nop { State.reset with err := 6 } = .next t ∧ t.rspOk = true ∧ ∀ b h r, Instr.nop ≠ .init b h r) ∧
      (∃ t, exec (.init 1 8 1) { State.reset with err := 6 } = .next t ∧ t.rspOk = true) ∧
      (∃ t, issue ⟨0x00007001, 0⟩ (comp .absorbing 1 4 32 3) = .next t ∧ t.rspOk = false) ∧
      (∃ t, issue ⟨0x00000048, 0⟩ { comp .absorbing 1 4 32 3 with err := 6 } = .next t ∧ t.rspOk = false ∧ t.err = 7) :=
  ⟨⟨_, rfl, rfl, nofun⟩, ⟨_, rfl, rfl⟩, ⟨_, rfl, rfl⟩, ⟨_, rfl, rfl, rfl⟩⟩

/-- The invariant in an ABSORBING state at its bound, in UNINIT with a pending byte, and after a rejection; and each of
them takes a step. -/
theorem test_witness_EveryStepKeepsTheInvariant :
    ((comp .absorbing 0xFFFFFFFF 128 512 127).Inv ∧ ∃ t, step (comp .absorbing 0xFFFFFFFF 128 512 127) = .next t) ∧
      ((comp .uninit 1 4 32 3).Inv ∧ ∃ t, step (comp .uninit 1 4 32 3) = .next t) ∧
      (({ State.reset with err := 7, rspValid := true, rspData := 0x70, stream := [.command ⟨0x3, 0⟩] } : State).Inv ∧
        ∃ t, step { State.reset with err := 7, rspValid := true, rspData := 0x70, stream := [.command ⟨0x3, 0⟩] } =
          .next t) :=
  ⟨⟨by decide, _, rfl⟩, ⟨by decide, _, rfl⟩, ⟨by decide, _, rfl⟩⟩

theorem test_witness_EveryStepCompletes :
    ({ comp .absorbing 1 128 8 127 with stream := [.command ⟨0x2, 0⟩] } : State).Inv := by decide

theorem test_witness_BufferIndexStops :
    ((comp .absorbing 1 1 8 128).phase = .absorbing ∧ 128 ≤ (comp .absorbing 1 1 8 128).bcount.toNat) ∧
      ((comp .inited 1 129 8 0).phase = .inited ∧ 128 < (comp .inited 1 129 8 0).cfgB.toNat) := by decide

theorem test_witness_InitDependsOnlyOnParameters :
    ∃ t t', exec (.init 1 8 1) State.reset = .next t ∧ t.rspOk = true ∧
      exec (.init 1 8 1) (comp .output 3 128 512 0) = .next t' :=
  ⟨_, _, rfl, rfl, rfl⟩

theorem test_witness_PaddingStatements :
    1 ≤ 1 ∧ 1 ≤ 128 ∧ ([0x41, 0x42] : List Byte).length = ([0, 0] : List Byte).length ∧
      (([0x41, 0x42] : List Byte).length + 1) % 3 = 0 := by decide

theorem test_witness_BlockWordIsTheSum :
    ((Vector.replicate 128 0x5A : Vector Byte 128).toList.length ≤ 128 ∧ ∀ k : Fin 128,
        (Vector.replicate 128 0x5A : Vector Byte 128).toList[k.val]? =
          some (Vector.replicate 128 0x5A : Vector Byte 128)[k]) ∧
      (([] : List Byte).length ≤ 128 ∧ ∀ k : Fin 128, k.val < ([] : List Byte).length →
        ([] : List Byte)[k.val]? = some (Vector.replicate 128 0 : Vector Byte 128)[k]) :=
  ⟨by decide +kernel, by decide, fun k h => absurd h (by simp)⟩

theorem test_witness_BlockBytesAreLittleEndian : (128 ≤ 128 ∧ (127 : BitVec 7).toNat < 128) ∧ (0 ≤ 128) := by decide

theorem test_witness_DigestIsTheSerialisation : 64 ≤ 64 ∧ 0 ≤ 64 := by decide

theorem test_witness_DigestIsImmutable :
    ∃ s t : State, s.phase = .output ∧ step s = .next t ∧ (∀ rest, s.stream ≠ .reset :: rest) ∧
      (∀ c rest, s.stream ≠ .resetDuring c :: rest) ∧
      (∀ c rest b h r, s.stream = .command c :: rest → decode c ≠ .ok (.init b h r)) := by
  refine ⟨{ comp .output 1 1 8 0 with stream := [.command ⟨0x3, 0⟩] }, _, rfl, rfl, nofun, nofun, ?_⟩
  intro c rest b h r e
  cases e
  rw [show decode ⟨0x3, 0⟩ = .ok .final from rfl]
  nofun

theorem test_witness_IllegalParametersGiveNoDigest :
    (0 < 2 ^ 32 ∧ 255 < 256 ∧ 1023 < 1024 ∧ ¬ Pipeline.Legal 0 255 1023) ∧ ¬ Pipeline.Legal 1 129 8 ∧
      ¬ Pipeline.Legal 1 1 12 := by
  unfold Pipeline.Legal; decide

theorem test_witness_ResetStatements :
    ({ comp .absorbing 1 4 32 3 with stream := [.reset] } : State).stream = .reset :: [] ∧
      ({ comp .absorbing 1 4 32 3 with stream := [.resetDuring ⟨0x3, 0⟩] } : State).stream =
        .resetDuring ⟨0x3, 0⟩ :: [] ∧
      (∃ t, step { comp .absorbing 1 4 32 3 with stream := [.resetDuring ⟨0x3, 0⟩] } = .next t) ∧
      (3 : BitVec 8).toNat < 4 ∧ Instr.final ≠ .nop ∧ (∀ b h r, Instr.final ≠ .init b h r) ∧
      (∀ c, Instr.final ≠ .rdcsr c) :=
  ⟨rfl, rfl, ⟨_, rfl⟩, by decide, nofun, nofun, nofun⟩

/-- Two states that differ in X in UNINIT, in BUF, and in ports that signal nothing; and two that differ in the bytes at
BCOUNT and above. -/
theorem test_witness_UnspecifiedValuesAreUnobservable :
    SameToHost State.reset
        { State.reset with x := countUp, buf := Vector.replicate 128 0xFF, rspOk := true, rspData := 5, draws := 9 } ∧
      SameToHost (comp .absorbing 1 4 32 0) (compWith .absorbing 1 4 32 0 (Vector.replicate 32 0) [0xAA]) :=
  ⟨⟨rfl, rfl, rfl, rfl, rfl, rfl, rfl, rfl, nofun, fun h => absurd rfl h, nofun⟩,
    ⟨rfl, rfl, rfl, rfl, rfl, rfl, rfl, rfl, nofun, fun _ => rfl, fun _ _ h => absurd h (Nat.not_lt_zero _)⟩⟩

theorem test_witness_SignedReadingIsTwosComplement :
    (0x7FFFFFFF : Word).toNat < 2 ^ 31 ∧ 2 ^ 31 ≤ (0x80000000 : Word).toNat := by decide

end Sys2Proof.Tests
end

section
/-! Rotation and the signed reading of a word (spec/00_scope.md R8, R12). -/

namespace Sys2Proof.Machine

/-- Rotation by less than the width of a word is the library's. -/
theorem rotl_eq_rotateLeft {v : Word} {k : Nat} (hk : k < 32) : rotl v k = v.rotateLeft k :=
  (BitVec.rotateLeft_eq_rotateLeftAux_of_lt hk).symm

/-- Bit j moves up to bit j + k while that stays within the word, and otherwise comes in again from the bottom. -/
theorem getLsbD_rotl_add_mod (v : Word) {k j : Nat} (hk : k < 32) (hj : j < 32) :
    (rotl v k).getLsbD ((j + k) % 32) = v.getLsbD j := by
  rw [rotl_eq_rotateLeft hk, BitVec.getLsbD_rotateLeft, Nat.mod_eq_of_lt hk]
  rcases Nat.lt_or_ge (j + k) 32 with within | wraps
  · have pos : (j + k) % 32 = j + k := Nat.mod_eq_of_lt within
    simp [pos, within]
  · have pos : (j + k) % 32 = j + k - 32 := by omega
    have low : j + k - 32 < k := by omega
    have source : 32 - k + (j + k - 32) = j := by omega
    simp [pos, low, source]

theorem signedReading_of_lt {w : Word} (h : w.toNat < 2 ^ 31) : signedReading w = w.toNat := if_pos h

theorem signedReading_of_ge {w : Word} (h : 2 ^ 31 ≤ w.toNat) : signedReading w = (w.toNat : Int) - 2 ^ 32 :=
  if_neg (Nat.not_lt.mpr h)

theorem signedReading_eq_toInt (w : Word) : signedReading w = w.toInt := by
  rw [BitVec.toInt_eq_toNat_cond]
  rcases Nat.lt_or_ge w.toNat (2 ^ 31) with h | h
  · rw [signedReading_of_lt h, if_pos (by omega)]
  · rw [signedReading_of_ge h, if_neg (by omega)]
    rfl

/-- Settles O1: below the width the model's rotation is the library's, whose bits the case split at j + k = 32 places. -/
theorem rotlIsCircularRotation : Obligations.RotlIsCircularRotation :=
  ⟨fun v _ _ hk => ⟨rfl, rotl_eq_rotateLeft hk, fun _ hj => getLsbD_rotl_add_mod v hk hj⟩, rfl, rfl⟩

/-- Settles O57, by the two sides of 2^31. -/
theorem signedReadingIsTwosComplement : Obligations.SignedReadingIsTwosComplement :=
  fun w => ⟨signedReading_eq_toInt w, signedReading_of_lt, signedReading_of_ge⟩

end Sys2Proof.Machine
end

section
/-! STATUS, and what a command does to PHASE, ERR and the response (spec/10_state.md R34, R40, R41). -/

namespace Sys2Proof.Machine

/-! ## STATUS as a number -/

/-- The three fields do not overlap, so their disjunction is their sum. -/
theorem toNat_status (s : State) :
    s.status.toNat = s.bcount.toNat * 256 + s.err.toNat * 16 + s.phase.code.toNat := by
  have hb := s.bcount.isLt
  have he := s.err.isLt
  have hp := s.phase.code.isLt
  have low := Nat.shiftLeft_add_eq_or_of_lt (i := 4) (b := s.phase.code.toNat) (by omega) s.err.toNat
  have all := Nat.shiftLeft_add_eq_or_of_lt (i := 8) (b := s.err.toNat <<< 4 + s.phase.code.toNat)
    (by omega) s.bcount.toNat
  simp (disch := omega) only [State.status, BitVec.toNat_or, BitVec.toNat_shiftLeft, BitVec.toNat_setWidth,
    Nat.mod_eq_of_lt, Nat.or_assoc, ← low, ← all]
  omega

/-- A slice of STATUS is read off its value as a number. -/
theorem status_slice_eq {s : State} {start len : Nat} {v : BitVec len}
    (h : (s.bcount.toNat * 256 + s.err.toNat * 16 + s.phase.code.toNat) / 2 ^ start % 2 ^ len = v.toNat) :
    s.status.extractLsb' start len = v :=
  BitVec.eq_of_toNat_eq (by rw [toNat_slice, toNat_status, h])

theorem status_fields (s : State) :
    s.status.extractLsb' 0 2 = s.phase.code ∧ s.status.extractLsb' 2 2 = 0 ∧
      s.status.extractLsb' 4 4 = s.err ∧ s.status.extractLsb' 8 8 = s.bcount ∧ s.status.extractLsb' 16 16 = 0 := by
  have hb := s.bcount.isLt
  have he := s.err.isLt
  have hp := s.phase.code.isLt
  exact ⟨status_slice_eq (by omega), status_slice_eq (by change _ = 0; omega), status_slice_eq (by omega),
    status_slice_eq (by omega), status_slice_eq (by change _ = 0; omega)⟩

theorem status_uninit {s : State} (hb : s.bcount = 0) (he : s.err = 0) (hp : s.phase = .uninit) : s.status = 0 := by
  simp only [State.status, hb, he, hp]; rfl

/-! ## Rejections -/

theorem reject_phase_of_isConfig {code : RejectCode} (hc : code.isConfig = true) (s : State) :
    (reject code s).phase = .uninit := by
  rw [reject_phase, if_pos hc]

theorem decodeReject_phase (e : DecodeError) (s : State) : (reject (decodeReject e) s).phase = s.phase := by
  cases e <;> rfl

/-- A command whose response has rsp_ok = 0 did nothing but be rejected. -/
theorem eq_reject_of_issue {c : Command} {s t : State} (h : issue c s = .next t) (hf : t.rspOk = false) :
    ∃ code, t = reject code s := by
  rcases issue_cases h with ⟨e, _, rfl⟩ | ⟨i, _, hx⟩
  · exact ⟨_, rfl⟩
  · rcases exec_ends hx with ⟨hok, _⟩ | ⟨code, rfl, _⟩
    · rw [hf] at hok; cases hok
    · exact ⟨code, rfl⟩

/-! ## What each command does to the response and to PHASE -/

/-- A command that is no read ends with `accept`, whatever it wrote before, or with a rejection. -/
theorem exec_accepts_or_rejects {i : Instr} {s t : State} (h : exec i s = .next t) (hs : ∀ j, i ≠ .rdstate j)
    (hd : ∀ k, i ≠ .rddigest k) (hc : ∀ c, i ≠ .rdcsr c) :
    (∃ u, t = accept u) ∨ ∃ code, t = reject code s := by
  cases i with
  | nop => exact .inl ⟨s, (Host.Outcome.next.inj h).symm⟩
  | init b g r => exact (execInit_cases h).imp (fun ⟨_, e⟩ => ⟨_, e⟩) fun ⟨code, _, e⟩ => ⟨code, e⟩
  | absorb d => exact (execAbsorb_cases h).imp (fun ⟨_, _, e⟩ => ⟨_, e⟩) fun ⟨_, e⟩ => ⟨_, e⟩
  | final => exact (execFinal_cases h).imp (fun ⟨_, _, e⟩ => ⟨_, e⟩) fun ⟨_, e⟩ => ⟨_, e⟩
  | perm n => exact (execPerm_cases h).imp (fun ⟨_, e⟩ => ⟨_, e⟩) fun ⟨_, e⟩ => ⟨_, e⟩
  | wrstate j v => exact (execWrstate_cases h).imp (fun ⟨_, e⟩ => ⟨_, e⟩) fun ⟨_, e⟩ => ⟨_, e⟩
  | rdstate j => exact absurd rfl (hs j)
  | rddigest k => exact absurd rfl (hd k)
  | rdcsr c => exact absurd rfl (hc c)

/-- INIT's rejections are configuration errors, so PHASE is INITED or UNINIT after it. -/
theorem exec_init_phase {b : BitVec 8} {g : BitVec 10} {r : Word} {s t : State} (h : exec (.init b g r) s = .next t) :
    (t.rspOk = true ∧ t.phase = .inited) ∨
      (t.rspOk = false ∧ t.phase = .uninit ∧ (t.err = 1 ∨ t.err = 2 ∨ t.err = 3)) := by
  rcases execInit_cases h with ⟨_, rfl⟩ | ⟨code, hcode, rfl⟩
  · exact .inl ⟨rfl, rfl⟩
  · have hc := configError_isConfig hcode
    exact .inr ⟨rfl, reject_phase_of_isConfig hc s, (isConfig_iff code).mp hc⟩

theorem exec_absorb_phase {d : Byte} {s t : State} (h : exec (.absorb d) s = .next t) :
    (t.rspOk = true ∧ (s.phase = .inited ∨ s.phase = .absorbing) ∧ t.phase = .absorbing) ∨
      (t.rspOk = false ∧ t.phase = s.phase) := by
  rcases execAbsorb_cases h with ⟨hopen, hb, rfl⟩ | ⟨_, rfl⟩
  · obtain ⟨_, _, _, hphase⟩ := absorbIfFull_keeps (pushByte d s hb)
    exact .inl ⟨rfl, (isOpen_iff _).mp hopen, hphase⟩
  · exact .inr ⟨rfl, rfl⟩

theorem exec_final_phase {s t : State} (h : exec .final s = .next t) :
    (t.rspOk = true ∧ (s.phase = .inited ∨ s.phase = .absorbing) ∧ t.phase = .output) ∨
      (t.rspOk = false ∧ t.phase = s.phase) := by
  rcases execFinal_cases h with ⟨hopen, _, rfl⟩ | ⟨_, rfl⟩
  · exact .inl ⟨rfl, (isOpen_iff _).mp hopen, (accept_phase _).trans (finish_phase _)⟩
  · exact .inr ⟨rfl, rfl⟩

/-- The commands that never write PHASE, accepted or rejected. -/
theorem exec_keeps_phase {i : Instr} {s t : State} (h : exec i s = .next t) (hi : ∀ b g r, i ≠ .init b g r)
    (ha : ∀ d, i ≠ .absorb d) (hf : i ≠ .final) : t.phase = s.phase := by
  cases i with
  | nop => cases h; rfl
  | init b g r => exact absurd rfl (hi b g r)
  | absorb d => exact absurd rfl (ha d)
  | final => exact absurd rfl hf
  | perm n => rcases execPerm_cases h with ⟨_, rfl⟩ | ⟨_, rfl⟩ <;> rfl
  | rdstate j => rcases execRdstate_cases h with ⟨_, rfl⟩ | ⟨_, rfl⟩ <;> rfl
  | wrstate j v => rcases execWrstate_cases h with ⟨_, rfl⟩ | ⟨_, rfl⟩ <;> rfl
  | rddigest k => rcases execRddigest_cases h with ⟨_, _, rfl⟩ | ⟨_, _, rfl⟩ | ⟨_, rfl⟩ <;> rfl
  | rdcsr c => rcases execRdcsr_cases h with ⟨_, _, rfl⟩ | ⟨_, rfl⟩ <;> rfl

/-! ## The obligations -/

/-- Settles O5: the fields are read off STATUS as a number, and a command that is no read ends with `accept` or `reject`,
both of which respond with STATUS. -/
theorem statusLayout : Obligations.StatusLayout := by
  refine ⟨status_fields, status_uninit rfl rfl rfl,
    fun s => status_uninit (applyReset_bcount s) (applyReset_err s) (applyReset_phase s), fun _ => rfl, ?_, ?_⟩
  · intro c s t h hf
    obtain ⟨code, rfl⟩ := eq_reject_of_issue h hf
    rfl
  · intro i s t h hs hd hc
    rcases exec_accepts_or_rejects h hs hd hc with ⟨u, rfl⟩ | ⟨code, rfl⟩ <;> rfl

/-- Settles O7, from what each command does to PHASE. -/
theorem phaseTransitions : Obligations.PhaseTransitions := by
  refine ⟨fun _ _ _ _ _ => exec_init_phase, fun _ _ _ => exec_absorb_phase, fun _ _ => exec_final_phase,
    fun _ _ _ => exec_keeps_phase, ?_, applyReset_phase⟩
  intro c e s t he h
  rcases issue_cases h with ⟨_, _, rfl⟩ | ⟨i, hi, _⟩
  · exact decodeReject_phase _ s
  · rw [he] at hi; cases hi

/-- Settles O8: a command is rejected by the decoder, or it ends as its instruction does. -/
theorem errIsWrittenByRejectionAndInit : Obligations.ErrIsWrittenByRejectionAndInit := by
  refine ⟨?_, applyReset_err, rfl⟩
  intro c s t h
  rcases issue_cases h with ⟨e, _, rfl⟩ | ⟨i, hi, hx⟩
  · exact .inl ⟨_, rfl, rfl, rfl⟩
  · rcases exec_ends hx with ⟨hok, _, _, _, herr⟩ | ⟨code, rfl, _⟩
    · refine .inr ⟨hok, ?_⟩
      rw [herr, hi]
      cases i <;> rfl
    · exact .inl ⟨code, rfl, rfl, rfl⟩

end Sys2Proof.Machine
end

section
/-! The command stream and the reads (spec/20_memory.md R67, R69). -/

namespace Sys2Proof.Machine

/-! ## A command neither reads nor writes the stream of later inputs -/

/-- An outcome whose next state, where it is one, has the inputs `l` before it. -/
def placing (l : List HostInput) : Host.Outcome State Fault Refusal → Host.Outcome State Fault Refusal
  | .next t => .next { t with stream := l }
  | .fault f => .fault f
  | .refused r => .refused r

/-- The inputs are placed after a check as they are after each of its two answers. -/
theorem placing_ite {p : Prop} [Decidable p] {l : List HostInput} {o o' q q' : Host.Outcome State Fault Refusal}
    (ho : o' = placing l o) (hq : q' = placing l q) : (if p then o' else q') = placing l (if p then o else q) := by
  rw [ho, hq, apply_ite (placing l)]

theorem absorbIfFull_stream (s : State) (l : List HostInput) :
    absorbIfFull { s with stream := l } = { absorbIfFull s with stream := l } := by
  simp only [absorbIfFull]
  split <;> rfl

theorem execInit_stream (b : BitVec 8) (h : BitVec 10) (r : Word) (s : State) (l : List HostInput) :
    execInit b h r { s with stream := l } = placing l (execInit b h r s) := by
  unfold execInit
  cases configError r b h <;> rfl

theorem execAbsorb_stream (d : Byte) (s : State) (l : List HostInput) :
    execAbsorb d { s with stream := l } = placing l (execAbsorb d s) := by
  refine placing_ite ?_ rfl
  by_cases hb : s.bcount.toNat < 128
  · simp only [hb, dite_true]
    exact congrArg (fun u => Host.Outcome.next (accept u)) (absorbIfFull_stream (pushByte d s hb) l)
  · simp only [hb, dite_false]
    rfl

theorem execRdcsr_stream (c : BitVec 8) (s : State) (l : List HostInput) :
    execRdcsr c { s with stream := l } = placing l (execRdcsr c s) := by
  have same : readCsr { s with stream := l } c = readCsr s c := rfl
  unfold execRdcsr
  rw [same]
  cases readCsr s c <;> rfl

theorem exec_stream (i : Instr) (s : State) (l : List HostInput) :
    exec i { s with stream := l } = placing l (exec i s) := by
  cases i with
  | nop => rfl
  | init b h r => exact execInit_stream b h r s l
  | absorb d => exact execAbsorb_stream d s l
  | final => exact placing_ite (placing_ite rfl rfl) rfl
  | perm n => exact placing_ite rfl rfl
  | rdstate j => exact placing_ite rfl rfl
  | wrstate j v => exact placing_ite rfl rfl
  | rddigest k => exact placing_ite (placing_ite rfl rfl) rfl
  | rdcsr c => exact execRdcsr_stream c s l

theorem issue_stream (c : Command) (s : State) (l : List HostInput) :
    issue c { s with stream := l } = placing l (issue c s) := by
  unfold issue
  cases decode c with
  | error e => rfl
  | ok i => exact exec_stream i s l

/-- A step with a command at the head of the stream carries it out, with the rest of the stream left. -/
theorem step_command (c : Command) (l : List HostInput) (s : State) :
    step { s with stream := .command c :: l } = issue c { s with stream := l } := rfl

/-- Settles O16, by induction on the commands: the state after the first is the same whichever inputs come later. -/
theorem stepsFollowTheCommandStream : Obligations.StepsFollowTheCommandStream := by
  intro cs rest s
  induction cs generalizing s with
  | nil => rfl
  | cons c cs ih =>
    simp only [List.length_cons, List.map_cons, List.cons_append, observeSteps, observe, step_command, issue_stream]
    cases issue c s with
    | next t => simp only [placing, ih]; rfl
    | fault f => rfl
    | refused r => rfl

/-! ## The reads -/

theorem execRdstate_repeat {i : BitVec 5} {s : State} (h : s.phase ≠ .uninit) (v : Word) :
    execRdstate i (respond true v s) = .next (respond true (readWord s.x i) s) := if_neg h

theorem execRddigest_repeat {k : BitVec 7} {s : State} (hp : s.phase = .output) (hk : k.toNat < s.cfgH.toNat / 8)
    (v : Word) : execRddigest k (respond true v s) = .next (respond true ((digestByte s.x k).setWidth 32) s) :=
  (if_pos hp).trans (if_pos hk)

theorem execRdcsr_repeat {c : BitVec 8} {s : State} {w : Word} (h : readCsr s c = some w) (v : Word) :
    execRdcsr c (respond true v s) = .next (respond true w s) := by
  have same : readCsr (respond true v s) c = some w := h
  simp only [execRdcsr, same]
  rfl

/-- A read does nothing but respond, and repeated it ends in the very same state; or it is rejected, and not with a
configuration error. -/
theorem exec_read_cases {i : Instr} {s t : State}
    (hi : i = .nop ∨ (∃ j, i = .rdstate j) ∨ (∃ k, i = .rddigest k) ∨ (∃ c, i = .rdcsr c)) (h : exec i s = .next t) :
    (∃ v, t = respond true v s ∧ exec i t = .next t) ∨ ∃ code, code.isConfig = false ∧ t = reject code s := by
  rcases hi with rfl | ⟨j, rfl⟩ | ⟨k, rfl⟩ | ⟨c, rfl⟩
  · cases h
    exact .inl ⟨_, rfl, rfl⟩
  · rcases execRdstate_cases h with ⟨hp, rfl⟩ | ⟨_, rfl⟩
    · exact .inl ⟨_, rfl, execRdstate_repeat hp _⟩
    · exact .inr ⟨_, rfl, rfl⟩
  · rcases execRddigest_cases h with ⟨hp, hk, rfl⟩ | ⟨_, _, rfl⟩ | ⟨_, rfl⟩
    · exact .inl ⟨_, rfl, execRddigest_repeat hp hk _⟩
    · exact .inr ⟨_, rfl, rfl⟩
    · exact .inr ⟨_, rfl, rfl⟩
  · rcases execRdcsr_cases h with ⟨v, hv, rfl⟩ | ⟨_, rfl⟩
    · exact .inl ⟨_, rfl, execRdcsr_repeat hv _⟩
    · exact .inr ⟨_, rfl, rfl⟩

/-- Settles O28: `respond` writes only the response ports, and a rejection that is no configuration error only ERR
beside them. -/
theorem readsHaveNoSideEffects : Obligations.ReadsHaveNoSideEffects := by
  intro i s t hi h
  rcases exec_read_cases hi h with ⟨v, rfl, again⟩ | ⟨code, hc, rfl⟩
  · exact ⟨⟨rfl, rfl, rfl, rfl, rfl, rfl, rfl, rfl, rfl⟩, fun _ => ⟨rfl, _, again, rfl, rfl⟩⟩
  · have phase : (reject code s).phase = s.phase := by simp [hc]
    exact ⟨⟨rfl, rfl, rfl, phase, rfl, rfl, rfl, rfl, rfl⟩, fun hok => by cases hok⟩

end Sys2Proof.Machine
end

section
/-! The byte order of X (spec/20_memory.md R61, R62, spec/44_output.md R210). -/

namespace Sys2Proof.Machine

/-! ## The word a block contributes -/

/-- A bit of a word into which those `f t` that are wanted are ORed. -/
theorem getLsbD_foldl_or {α : Type} (wanted : α → Prop) [DecidablePred wanted] (f : α → Word) (l : List α) (w : Word)
    (i : Nat) : (l.foldl (fun w t => if wanted t then w ||| f t else w) w).getLsbD i = true ↔
      w.getLsbD i = true ∨ ∃ t ∈ l, wanted t ∧ (f t).getLsbD i = true := by
  induction l generalizing w with
  | nil => simp
  | cons a l ih =>
    rw [List.foldl_cons, ih]
    by_cases ha : wanted a <;> simp [ha, or_assoc]

/-- A byte shifted to place `u` of a word has its bits there and nowhere else. -/
theorem getLsbD_byte_at (d : Byte) {t u n : Nat} (ht : t < 4) (hn : n < 8) :
    (d.setWidth 32 <<< (8 * u)).getLsbD (8 * t + n) = true ↔ u = t ∧ d.getLsbD n = true := by
  rw [BitVec.getLsbD_shiftLeft, BitVec.getLsbD_setWidth]
  rcases Nat.lt_trichotomy u t with below | rfl | above
  · have past : d.getLsbD (8 * t + n - 8 * u) = false := BitVec.getLsbD_of_ge _ _ (by omega)
    simp [past, Nat.ne_of_lt below]
  · have inWord : 8 * u + n < 32 := by omega
    have low : n < 32 := by omega
    simp [inWord, low]
  · have under : 8 * t + n < 8 * u := by omega
    simp [under, Nat.ne_of_gt above]

/-- Byte t of the word a block contributes to X[j] is byte 4·j + t of the block, and 0 past its end. -/
theorem blockWord_byte (b : Nat) (buf : Vector Byte 128) (j : Fin 32) (t : Fin 4) :
    (blockWord b buf j).extractLsb' (8 * t.val) 8 =
      if 4 * j.val + t.val < b then buf[4 * j.val + t.val] else 0 := by
  refine BitVec.eq_of_getLsbD_eq fun n hn => Bool.eq_iff_iff.mpr ?_
  rw [BitVec.getLsbD_extractLsb', blockWord]
  simp only [hn, decide_true, Bool.true_and, getLsbD_foldl_or (fun t : Fin 4 => 4 * j.val + t.val < b),
    getLsbD_byte_at _ t.isLt hn]
  constructor
  · rintro (h | ⟨u, _, hu, e, hd⟩)
    · simp at h
    · obtain rfl := Fin.ext e
      rwa [if_pos hu]
  · split
    · exact fun hd => .inr ⟨t, List.mem_finRange t, ‹_›, rfl, hd⟩
    · simp

/-! ## The bytes of X -/

/-- Settles O42: byte k is in word k div 4, and past the last word the block reaches, every byte is past its end. -/
theorem blockBytesAreLittleEndian : Obligations.BlockBytesAreLittleEndian := by
  intro b buf x k _
  have hk := k.isLt
  have byte := blockWord_byte b buf ⟨k.toNat / 4, by omega⟩ ⟨k.toNat % 4, by omega⟩
  simp only [Nat.div_add_mod] at byte
  unfold digestByte
  rw [xorBlock_getElem]
  by_cases touched : k.toNat / 4 < (b + 3) / 4
  · rw [if_pos touched, BitVec.extractLsb'_xor, byte]
    split <;> simp
  · rw [if_neg touched, if_neg (by omega)]

/-- Byte k of a serialisation is byte k mod 4 of word k div 4. -/
theorem getElem?_flatMap_wordBytes (ws : List Word) (k : Nat) :
    (ws.flatMap Pipeline.wordBytes)[k]? = ws[k / 4]?.map fun w => w.extractLsb' (8 * (k % 4)) 8 := by
  induction ws generalizing k with
  | nil => simp
  | cons w ws ih =>
    match k with
    | 0 | 1 | 2 | 3 => rfl
    | k + 4 =>
      have tail : ((w :: ws).flatMap Pipeline.wordBytes)[k + 4]? = (ws.flatMap Pipeline.wordBytes)[k]? := rfl
      rw [tail, ih, Nat.add_div_right k (by decide), Nat.add_mod_right, List.getElem?_cons_succ]

/-- D[k] of R210 is byte k of the serialisation of X. -/
theorem getElem?_serialisation (x : Words) {k : Nat} (hk : k < 128) :
    (x.toList.flatMap Pipeline.wordBytes)[k]? = some (digestByte x (BitVec.ofNat 7 k)) := by
  have index : (BitVec.ofNat 7 k).toNat = k := Nat.mod_eq_of_lt hk
  have word : x.toList[k / 4]? = some (x[k / 4]'(by omega)) := by simp
  simp only [getElem?_flatMap_wordBytes, word, digestByte, index, Option.map_some]

/-- Settles O43, byte by byte. -/
theorem digestIsTheSerialisation : Obligations.DigestIsTheSerialisation := by
  intro x n hn
  refine List.ext_getElem? fun k => ?_
  rw [List.getElem?_take]
  by_cases hk : k < n
  · rw [if_pos hk, getElem?_serialisation x (by omega), List.getElem?_map, List.getElem?_range hk, Option.map_some]
  · rw [if_neg hk, List.getElem?_eq_none (by simp; omega)]

end Sys2Proof.Machine
end

section
/-! Decoding is total, the worked encodings, and the response of every command (spec/30_encoding.md R86 to R93). -/

namespace Sys2Proof

/-! ## The opcode of an instruction, in its words and in the words it is read from -/

/-- The opcode of each command (R86). -/
def Instr.opNumber : Instr → Nat
  | .nop => 0x0
  | .init _ _ _ => 0x1
  | .absorb _ => 0x2
  | .final => 0x3
  | .perm _ => 0x4
  | .rdstate _ => 0x5
  | .wrstate _ _ => 0x6
  | .rddigest _ => 0x7
  | .rdcsr _ => 0x8

/-- A field above the opcode leaves the opcode to be read. -/
theorem field_mod {n : Nat} (hn : n ≤ 28) (d : BitVec n) {op : Nat} (ho : op < 16) :
    (d.setWidth 32 <<< 4 ||| BitVec.ofNat 32 op).toNat % 16 = op := by
  rw [toNat_field n hn d op ho]
  omega

/-- The encoder writes the opcode in the low four bits. -/
theorem encode_cmd_mod (i : Instr) : (encode i).cmd.toNat % 16 = i.opNumber := by
  cases i with
  | nop => rfl
  | init b h r => exact (congrArg (· % 16) (toNat_init b h)).trans (by simp only [Instr.opNumber]; omega)
  | absorb d => exact field_mod (by decide) d (by decide)
  | final => rfl
  | perm n => rfl
  | rdstate j => exact field_mod (by decide) j (by decide)
  | wrstate j v => exact field_mod (by decide) j (by decide)
  | rddigest k => exact field_mod (by decide) k (by decide)
  | rdcsr c => exact field_mod (by decide) c (by decide)

theorem opNumber_of_dispatchOp {c : Command} {i : Instr} (h : dispatchOp c = some i) :
    i.opNumber = (opcode c.cmd).toNat := by
  unfold dispatchOp at h
  split at h <;> cases h <;> exact Eq.symm ‹_›

/-! ## The three answers of the decoder -/

theorem decode_illegal {c : Command} (h : dispatchOp c = none) : decode c = .error .illegal := by
  simp only [decode, h]

theorem decode_reserved {c : Command} {i : Instr} (h : dispatchOp c = some i)
    (hm : c.cmd &&& resMask (opcode c.cmd) ≠ 0) : decode c = .error .reserved := by
  simp only [decode, h, hm, if_false]

/-- The table of RESMASK (R89), by opcode. -/
def maskTable : List Word :=
  [0xFFFFFFF0, 0xFFC00000, 0xFFFFF000, 0xFFFFFFF0, 0xFFFFFFF0, 0xFFFFFE00, 0xFFFFFE00, 0xFFFFF800, 0xFFFFF000]

/-- The table has a row for exactly the words that have a legal opcode: the mask of that opcode. -/
theorem maskTable_getElem? (c : Command) :
    maskTable[c.cmd.toNat % 16]? = (dispatchOp c).map fun _ => resMask (opcode c.cmd) := by
  rw [← opcode_toNat]
  unfold dispatchOp resMask
  generalize (opcode c.cmd).toNat = n
  match n with
  | 0 | 1 | 2 | 3 | 4 | 5 | 6 | 7 | 8 => rfl
  | _ + 9 => rfl

/-- Settles O12: the table has a mask for exactly the opcodes that are legal, and the decoder then looks at that mask. -/
theorem decodeIsTotal : Obligations.DecodeIsTotal := by
  intro c masks
  have row : masks[c.cmd.toNat % 16]? = _ := maskTable_getElem? c
  rw [row]
  cases hi : dispatchOp c with
  | none => exact decode_illegal hi
  | some i =>
    refine ⟨decode_reserved hi, fun hm => ⟨i, decode_ok_iff.mpr ⟨hi, hm⟩, ?_⟩⟩
    rw [encode_cmd_mod, opNumber_of_dispatchOp hi, opcode_toNat]

/-- A word is legal whatever its operand: the word alone has the reserved bits. -/
theorem decode_mk {w opd : Word} {i : Instr} (hi : dispatchOp ⟨w, opd⟩ = some i)
    (hm : w &&& resMask (opcode w) = 0) : decode ⟨w, opd⟩ = .ok i :=
  decode_ok_iff.mpr ⟨hi, hm⟩

/-- Settles O13: the encoder's words evaluate; the decoder reads the fields back, and no reserved bit is set, whatever the
operand. -/
theorem workedEncodings : Obligations.WorkedEncodings := by
  intro v n
  refine ⟨⟨rfl, ?_⟩, ⟨rfl, ?_⟩, ⟨rfl, ?_⟩, ⟨rfl, ?_⟩, ⟨rfl, ?_⟩, ⟨rfl, ?_⟩, ⟨rfl, ?_⟩, ⟨rfl, ?_⟩, ⟨rfl, ?_⟩,
    ⟨rfl, ?_⟩⟩
  all_goals
    exact decode_mk (by simp [dispatchOp, opcode, fieldB, fieldH, fieldD, fieldI, fieldK, fieldC]) (by decide)

namespace Machine

/-! ## The response -/

theorem issue_rspValid {c : Command} {s t : State} (h : issue c s = .next t) : t.rspValid = true := by
  rcases issue_cases h with ⟨_, _, rfl⟩ | ⟨_, _, hx⟩
  · rfl
  · rcases exec_ends hx with ⟨_, valid, _⟩ | ⟨_, rfl, _⟩
    · exact valid
    · rfl

theorem rdstate_rspData {j : BitVec 5} {s t : State} (h : exec (.rdstate j) s = .next t) (hok : t.rspOk = true) :
    t.rspData = readWord s.x j := by
  rcases execRdstate_cases h with ⟨_, rfl⟩ | ⟨_, rfl⟩
  · rfl
  · cases hok

theorem rddigest_rspData {k : BitVec 7} {s t : State} (h : exec (.rddigest k) s = .next t) (hok : t.rspOk = true) :
    t.rspData = (digestByte s.x k).setWidth 32 := by
  rcases execRddigest_cases h with ⟨_, _, rfl⟩ | ⟨_, _, rfl⟩ | ⟨_, rfl⟩
  · rfl
  · cases hok
  · cases hok

theorem rdcsr_rspData {n : BitVec 8} {s t : State} (h : exec (.rdcsr n) s = .next t) (hok : t.rspOk = true) :
    readCsr s n = some t.rspData := by
  rcases execRdcsr_cases h with ⟨_, hv, rfl⟩ | ⟨_, rfl⟩
  · exact hv
  · cases hok

/-- Settles O18: the three reads by what they answer, and the STATUS of the others and of the rejections from O5. -/
theorem responseOfEveryCommand : Obligations.ResponseOfEveryCommand := by
  intro c s t h
  obtain ⟨_, _, _, _, rejected, notARead⟩ := statusLayout
  refine ⟨issue_rspValid h, rejected c s t h, fun hok => ?_⟩
  rcases issue_cases h with ⟨_, _, rfl⟩ | ⟨i, hi, hx⟩
  · cases hok
  · refine ⟨i, hi, ?_⟩
    cases i with
    | rdstate j => exact rdstate_rspData hx hok
    | rddigest k => exact rddigest_rspData hx hok
    | rdcsr n => exact rdcsr_rspData hx hok
    | nop | init _ _ _ | absorb _ | final | perm _ | wrstate _ _ => exact notARead _ s t hx nofun nofun nofun

end Machine
end Sys2Proof
end

section
/-! One round and T(n) (spec/40_state_transform.md R110 to R113, R117). -/

namespace Sys2Proof.Machine

/-! ## Loops whose iterations write apart (R111) -/

/-- A loop none of whose iterations changes `part` leaves it. -/
theorem foldl_spares {α β ι : Type} {body : α → ι → α} {part : α → β} {l : List ι}
    (spare : ∀ j ∈ l, ∀ a, part (body a j) = part a) (a : α) : part (l.foldl body a) = part a := by
  induction l generalizing a with
  | nil => rfl
  | cons j l ih =>
    obtain ⟨hj, hl⟩ := List.forall_mem_cons.mp spare
    exact (ih hl _).trans (hj a)

/-- What iteration `i` alone changes, from its own old value only, the loop changes as that iteration does. -/
theorem foldl_own_iteration {α β ι : Type} {body : α → ι → α} {part : α → β} {write : β → β} {i : ι} {l : List ι}
    (mem : i ∈ l) (once : l.Nodup) (own : ∀ a, part (body a i) = write (part a))
    (others : ∀ j ∈ l, j ≠ i → ∀ a, part (body a j) = part a) (a : α) :
    part (l.foldl body a) = write (part a) := by
  obtain ⟨before, after, rfl⟩ := List.append_of_mem mem
  obtain ⟨notBefore, notAfter⟩ : i ∉ before ∧ i ∉ after := by
    rw [List.nodup_middle, List.nodup_cons, List.mem_append] at once
    exact not_or.mp once.1
  have spareBefore : ∀ j ∈ before, ∀ a, part (body a j) = part a := fun j hj =>
    others j (List.mem_append_left _ hj) (ne_of_mem_of_not_mem hj notBefore)
  have spareAfter : ∀ j ∈ after, ∀ a, part (body a j) = part a := fun j hj =>
    others j (List.mem_append_right _ (List.mem_cons_of_mem _ hj)) (ne_of_mem_of_not_mem hj notAfter)
  rw [List.foldl_append, List.foldl_cons, foldl_spares spareAfter, own, foldl_spares spareBefore]

theorem forLanes_own_iteration {α β : Type} {body : α → Fin 16 → α} {part : α → β} {write : β → β} (i : Fin 16)
    (own : ∀ a, part (body a i) = write (part a)) (others : ∀ j, j ≠ i → ∀ a, part (body a j) = part a) (a : α) :
    part (forLanes a body) = write (part a) :=
  foldl_own_iteration (List.mem_finRange i) (List.nodup_finRange 16) own (fun j _ => others j) a

/-! ## The lanes of a half -/

theorem half_ext {v w : Half} (h : ∀ i : Fin 16, v[i] = w[i]) : v = w :=
  Vector.ext fun i hi => h ⟨i, hi⟩

theorem lanes_lane (f : Fin 16 → Word) (i : Fin 16) : (lanes f)[i] = f i := lanes_getElem f i i.isLt

theorem setLane_same (v : Half) (i : Fin 16) (w : Word) : (setLane v i w)[i] = w := by simp [setLane]

theorem setLane_other (v : Half) {i j : Fin 16} (w : Word) (h : j ≠ i) : (setLane v j w)[i] = v[i] := by
  simp [setLane, Fin.val_ne_of_ne h]

/-- A loop that rewrites each lane from its old value. -/
theorem forLanes_setLane (f : Fin 16 → Word → Word) (v : Half) :
    forLanes v (fun v i => setLane v i (f i v[i])) = lanes fun i => f i v[i] := by
  refine half_ext fun i => ?_
  rw [lanes_lane]
  exact forLanes_own_iteration (part := fun v : Half => v[i]) (write := f i) i
    (fun v => setLane_same v i _) (fun j hj v => setLane_other v _ hj) v

/-- `for i in [0,16): y[i xor k] <- v[i]` stashes v, whatever y holds (log entry 10). -/
theorem forLanes_stash (k : Fin 16) (v y : Half) :
    forLanes y (fun y i => setLane y (i ^^^ k) v[i]) = stash k v := by
  refine half_ext fun j => ?_
  obtain ⟨i, rfl⟩ : ∃ i, j = i ^^^ k := ⟨j ^^^ k, (xor_xor_lane j k).symm⟩
  simp only [stash, lanes_lane, xor_xor_lane]
  exact forLanes_own_iteration (part := fun y : Half => y[i ^^^ k]) (write := fun _ => v[i]) i
    (fun y => setLane_same y _ _)
    (fun j hj y => setLane_other y _ fun e => hj (by rw [← xor_xor_lane j k, e, xor_xor_lane])) y

/-- The lanes step 7 runs over. -/
def evenLanes : List (Fin 16) := [0, 2, 4, 6, 8, 10, 12, 14]

/-- `(v[i], v[i + 1]) <- (v[i + 1], v[i])`. -/
def exchange (v : Half) (i : Fin 16) : Half := setLane (setLane v i v[i + 1]) (i + 1) v[i]

theorem evenLanes_disjoint :
    ∀ i ∈ evenLanes, ∀ j ∈ evenLanes, j ≠ i → j ≠ i + 1 ∧ j + 1 ≠ i ∧ j + 1 ≠ i + 1 := by decide

theorem lane_in_pair (i : Fin 16) :
    (i ∈ evenLanes ∧ i ^^^ 1 = i + 1) ∨ ∃ j ∈ evenLanes, i = j + 1 ∧ i ^^^ 1 = j := by
  revert i; decide

theorem exchange_pair (v : Half) (i : Fin 16) : ((exchange v i)[i], (exchange v i)[i + 1]) = (v[i + 1], v[i]) := by
  have apart : i + 1 ≠ i := by revert i; decide
  rw [exchange, setLane_same, setLane_other _ _ apart, setLane_same]

theorem exchange_other (v : Half) {i j : Fin 16} (h : j ≠ i) (h' : j + 1 ≠ i) : (exchange v j)[i] = v[i] := by
  rw [exchange, setLane_other _ _ h', setLane_other _ _ h]

theorem foldl_exchange (v : Half) : evenLanes.foldl exchange v = lanes fun i => v[i ^^^ 1] := by
  have pair {i : Fin 16} (hi : i ∈ evenLanes) :
      ((evenLanes.foldl exchange v)[i], (evenLanes.foldl exchange v)[i + 1]) = (v[i + 1], v[i]) :=
    foldl_own_iteration (part := fun v : Half => (v[i], v[i + 1])) (write := Prod.swap) hi (by decide)
      (fun v => exchange_pair v i)
      (fun j hj ne v => by
        obtain ⟨h1, h2, h3⟩ := evenLanes_disjoint i hi j hj ne
        rw [exchange_other v ne h2, exchange_other v h1 h3]) v
  refine half_ext fun i => ?_
  rw [lanes_lane]
  rcases lane_in_pair i with ⟨even, e⟩ | ⟨j, even, rfl, e⟩
  · simpa only [e] using congrArg Prod.fst (pair even)
  · simpa only [e] using congrArg Prod.snd (pair even)

/-! ## The loops of a round are its steps -/

/-- A loop that sets the lanes of one half of the temporaries. -/
theorem forLanes_set_half (put : Half → Temps) {w : Fin 16 → Word} {body : Temps → Fin 16 → Temps}
    (h : ∀ v i, body (put v) i = put (setLane v i (w i))) (v : Half) : forLanes (put v) body = put (lanes w) :=
  (List.foldl_hom put h).trans (congrArg put (forLanes_setLane (fun i _ => w i) v))

/-- A loop that stashes a half in one half of the temporaries. -/
theorem forLanes_stash_half (put : Half → Temps) {k : Fin 16} {v : Half} {body : Temps → Fin 16 → Temps}
    (h : ∀ y i, body (put y) i = put (setLane y (i ^^^ k) v[i])) (y : Half) :
    forLanes (put y) body = put (stash k v) :=
  (List.foldl_hom put h).trans (congrArg put (forLanes_stash k v y))

theorem loop_step1 (t : Temps) : forLanes t (fun t i =>
    { t with hi := setLane t.hi i (t.hi[i] + t.lo[i]), y := setLane t.y (i ^^^ 8) t.lo[i] }) = step1 t := by
  unfold step1
  rw [← forLanes_setLane (fun i h => h + t.lo[i]) t.hi, ← forLanes_stash 8 t.lo t.y]
  exact List.foldl_hom₂ _ (fun v y => ({ t with hi := v, y := y } : Temps)) _ _ _ t.hi t.y (fun _ _ _ => rfl)

theorem loop_step2 (t : Temps) : forLanes t (fun t i =>
    { t with lo := setLane t.lo i (rotl t.y[i] Config.rotA ^^^ t.hi[i]) }) = step2 t :=
  forLanes_set_half (fun v => { t with lo := v }) (fun _ _ => rfl) t.lo

theorem loop_step3 (t : Temps) :
    forLanes t (fun t i => { t with y := setLane t.y (i ^^^ 2) t.hi[i] }) = step3 t :=
  forLanes_stash_half (fun v => { t with y := v }) (fun _ _ => rfl) t.y

theorem loop_step4 (t : Temps) :
    forLanes t (fun t i => { t with hi := setLane t.hi i (t.y[i] + t.lo[i]) }) = step4 t :=
  forLanes_set_half (fun v => { t with hi := v }) (fun _ _ => rfl) t.hi

theorem loop_step5 (t : Temps) :
    forLanes t (fun t i => { t with y := setLane t.y (i ^^^ 4) t.lo[i] }) = step5 t :=
  forLanes_stash_half (fun v => { t with y := v }) (fun _ _ => rfl) t.y

theorem loop_step6 (t : Temps) : forLanes t (fun t i =>
    { t with lo := setLane t.lo i (rotl t.y[i] Config.rotB ^^^ t.hi[i]) }) = step6 t :=
  forLanes_set_half (fun v => { t with lo := v }) (fun _ _ => rfl) t.lo

theorem loop_step7 (t : Temps) : ([0, 2, 4, 6, 8, 10, 12, 14] : List (Fin 16)).foldl
    (fun t i => { t with hi := setLane (setLane t.hi i t.hi[i + 1]) (i + 1) t.hi[i] }) t = step7 t := by
  unfold step7
  rw [← foldl_exchange t.hi]
  exact List.foldl_hom (fun v => ({ t with hi := v } : Temps)) (fun _ _ => rfl)

/-- The words of X are those of its two halves (R30). -/
theorem words_ext {v w : Words} (h : ∀ i : Fin 16, v[i.val] = w[i.val] ∧ v[16 + i.val] = w[16 + i.val]) : v = w := by
  refine Vector.ext fun k hk => ?_
  rcases Nat.lt_or_ge k 16 with low | high
  · exact (h ⟨k, low⟩).1
  · obtain ⟨i, rfl⟩ := Nat.exists_eq_add_of_le high
    exact (h ⟨i, by omega⟩).2

theorem append_low (lo hi : Half) (i : Fin 16) : (lo ++ hi)[i.val] = lo[i] :=
  Vector.getElem_append_left i.isLt

theorem append_high (lo hi : Half) (i : Fin 16) : (lo ++ hi)[16 + i.val] = hi[i] := by
  refine (Vector.getElem_append_right (by omega) (Nat.le_add_right 16 i.val)).trans ?_
  simp

/-- The loop that writes the halves back. -/
theorem forLanes_store (lo hi : Half) (x : Words) :
    forLanes x (fun x i => (x.set i.val lo[i]).set (16 + i.val) hi[i]) = lo ++ hi := by
  refine words_ext fun i => ?_
  have lane := forLanes_own_iteration
    (body := fun (x : Words) i => (x.set i.val lo[i]).set (16 + i.val) hi[i])
    (part := fun x => (x[i.val], x[16 + i.val])) (write := fun _ => (lo[i], hi[i])) i (fun x => by simp)
    (fun j hj x => by
      have ne : j.val ≠ i.val := Fin.val_ne_of_ne hj
      have h1 : 16 + j.val ≠ i.val := by omega
      have h2 : j.val ≠ 16 + i.val := by omega
      simp [ne, h1, h2]) x
  exact ⟨(congrArg Prod.fst lane).trans (append_low lo hi i).symm,
    (congrArg Prod.snd lane).trans (append_high lo hi i).symm⟩

/-- Step 1 writes all of y, so what y held before is of no account (R111). -/
theorem roundLoops_eq_oneRound (y : Half) (x : Words) : roundLoops y x = oneRound x := by
  simp only [roundLoops, loop_step1, loop_step2, loop_step3, loop_step4, loop_step5, loop_step6, loop_step7,
    forLanes_store]
  rfl

/-! ## The obligations -/

/-- Settles O2: each loop is its step, and the steps read one after another are the closed form. -/
theorem roundIsTheClosedForm : Obligations.RoundIsTheClosedForm := by
  intro y x
  refine ⟨roundLoops_eq_oneRound y x, fun i => ⟨(append_low _ _ i).trans ?_, (append_high _ _ i).trans ?_⟩⟩ <;>
    simp [step1, step2, step3, step4, step5, step6, step7, loadTemps]

/-- Settles O3: T(n) is a repetition. -/
theorem transformComposes : Obligations.TransformComposes :=
  ⟨times_zero oneRound, fun n x => times_succ_last n oneRound x, fun m n x => times_add m n oneRound x⟩

/-- Settles O4, by evaluating the round. -/
theorem roundOfUnit : Obligations.RoundOfUnit := by
  unfold Obligations.RoundOfUnit
  decide

end Sys2Proof.Machine
end

section
/-! Commands that decode, reserved bits, and PERM (spec/30_encoding.md R88, R89, spec/40_state_transform.md R116). -/

namespace Sys2Proof.Machine

theorem issue_of_decode {c : Command} {i : Instr} (h : decode c = .ok i) (s : State) : issue c s = exec i s := by
  simp only [issue, h]

theorem issue_of_decode_error {c : Command} {e : DecodeError} (h : decode c = .error e) (s : State) :
    issue c s = .next (reject (decodeReject e) s) := by
  simp only [issue, h]

/-- A word with no 1 under a mask that reaches from bit `lo` to the top is below 2^lo. -/
theorem toNat_div_of_masked {w : Word} {lo : Nat} (h : w &&& BitVec.allOnes 32 <<< lo = 0) : w.toNat / 2 ^ lo = 0 := by
  have upper : w >>> lo = 0 := BitVec.eq_of_getLsbD_eq fun j hj => by
    rw [BitVec.getLsbD_ushiftRight, BitVec.ofNat_eq_ofNat, BitVec.getLsbD_zero]
    by_cases within : lo + j < 32
    · exact getLsbD_of_masked h (lo + j) (by simp [within, -BitVec.reduceAllOnes])
    · exact BitVec.getLsbD_of_ge w _ (by omega)
  rw [← Nat.shiftRight_eq_div_pow, ← BitVec.toNat_ushiftRight, upper]
  rfl

/-- An opcode whose row of RESMASK has every bit from `lo` up is legal, and a 1 among them is reserved (R88, R89). -/
theorem rejectsReserved_of_mask {op lo : Nat} (row : maskTable[op]? = some (BitVec.allOnes 32 <<< lo)) :
    RejectsReserved op lo := by
  intro c s hop high
  rw [← hop, maskTable_getElem?] at row
  obtain ⟨i, hi, mask⟩ := Option.map_eq_some_iff.mp row
  refine issue_of_decode_error (decode_reserved hi fun clear => high ?_) s
  rw [mask] at clear
  exact toNat_div_of_masked clear

/-- Settles O23: PERM's check of PHASE has two answers, and its word decodes to it. -/
theorem permCompletes : Obligations.PermCompletes := by
  refine ⟨fun n s h => if_pos ((isOpen_iff _).mpr h), fun n s h => if_neg ?_, fun n s => issue_of_decode ?_ s,
    rejectsReserved_of_mask rfl⟩
  · simp [(isOpen_false_iff _).mpr h]
  · exact decode_mk rfl (by decide)

end Sys2Proof.Machine
end

section
/-! INIT: its checks, its IV, its word, and what it leaves (spec/41_iv_generator.md R140 to R145). -/

namespace Sys2Proof.Machine

/-! ## The two ends of INIT -/

theorem execInit_accepts {r : Word} {b : BitVec 8} {h : BitVec 10} (legal : configError r b h = none) (s : State) :
    execInit b h r s = .next (accept { s with
      cfgR := r, cfgB := b, cfgH := h, x := ivWords r b h, bcount := 0, phase := .inited, err := 0 }) := by
  simp only [execInit, legal]

theorem execInit_rejects {r : Word} {b : BitVec 8} {h : BitVec 10} {code : RejectCode}
    (illegal : configError r b h = some code) (s : State) : execInit b h r s = .next (reject code s) := by
  simp only [execInit, illegal]

/-- Parameters of the ports' widths are legal when INIT's checks pass: that r is below 2^32 is its width. -/
theorem configError_none_of_legal {r : Word} {b : BitVec 8} {h : BitVec 10}
    (legal : Pipeline.Legal r.toNat b.toNat h.toNat) : configError r b h = none := by
  obtain ⟨hr, _, hb, hb', hh, hh', hmod⟩ := legal
  exact (configError_none_iff r b h).mpr ⟨hr, hb, hb', hh, hh', hmod⟩

/-- An accepted INIT answers STATUS in INITED with nothing pending and ERR clear. -/
theorem exec_init_of_legal {r : Word} {b : BitVec 8} {h : BitVec 10}
    (legal : Pipeline.Legal r.toNat b.toNat h.toNat) (s : State) :
    exec (.init b h r) s = .next { s with
      cfgR := r, cfgB := b, cfgH := h, x := ivWords r b h, bcount := 0, phase := .inited, err := 0,
      rspValid := true, rspOk := true, rspData := 0x00000001 } := by
  refine (execInit_accepts (configError_none_of_legal legal) s).trans ?_
  rw [accept, status_inited rfl rfl rfl]
  rfl

/-! ## The checks in their order (R142, R267) -/

theorem configError_badR {r : Word} (b : BitVec 8) (h : BitVec 10) (low : r.toNat < 1) :
    configError r b h = some .badR := if_pos low

theorem configError_badB {r : Word} {b : BitVec 8} (h : BitVec 10) (hr : 1 ≤ r.toNat)
    (bad : b.toNat < 1 ∨ 128 < b.toNat) : configError r b h = some .badB :=
  (if_neg (Nat.not_lt.mpr hr)).trans (if_pos bad)

theorem configError_badH {r : Word} {b : BitVec 8} {h : BitVec 10} (hr : 1 ≤ r.toNat) (hb : 1 ≤ b.toNat)
    (hb' : b.toNat ≤ 128) (bad : h.toNat < 8 ∨ 512 < h.toNat ∨ h.toNat % 8 ≠ 0) :
    configError r b h = some .badH :=
  (if_neg (Nat.not_lt.mpr hr)).trans <|
    (if_neg (not_or.mpr ⟨Nat.not_lt.mpr hb, Nat.not_lt.mpr hb'⟩)).trans (if_pos bad)

/-! ## The IV (R140, R141) -/

theorem seed_eq_ofFn (r : Word) (b : BitVec 8) (h : BitVec 10) :
    seed r b h = Vector.ofFn fun i => if i.val = 0 then BitVec.ofNat 32 (h.toNat / 8)
      else if i.val = 1 then BitVec.ofNat 32 b.toNat else if i.val = 2 then r else 0 := by
  refine Vector.ext fun j hj => ?_
  rw [seed_getElem, Vector.getElem_ofFn, BitVec.ofNat_toNat]

/-- Ten calls of T(r) are T(10·r). -/
theorem ivWords_eq_transform (r : Word) (b : BitVec 8) (h : BitVec 10) :
    ivWords r b h = transform (10 * r.toNat) (seed r b h) := times_transform 10 r.toNat _

theorem ivWords_eq_iv (r : Word) (b : BitVec 8) (h : BitVec 10) :
    ivWords r b h = Pipeline.iv r.toNat b.toNat h.toNat := by
  rw [ivWords_eq_transform, seed_eq_ofFn, Pipeline.iv]
  congr 2
  funext i
  match i with
  | 0 | 1 => rfl
  | 2 => simp
  | ⟨k + 3, _⟩ => simp

/-! ## The word of INIT (R83, R86) -/

theorem toNat_encode_init (b : BitVec 8) (h : BitVec 10) (r : Word) :
    (encode (.init b h r)).cmd.toNat = h.toNat * 2 ^ 12 + b.toNat * 2 ^ 4 + 0x1 := toNat_init b h

theorem encode_init (b : BitVec 8) (h : BitVec 10) (r : Word) :
    encode (.init b h r) = ⟨BitVec.ofNat 32 (h.toNat * 2 ^ 12 + b.toNat * 2 ^ 4 + 0x1), r⟩ := by
  have cmd : (encode (.init b h r)).cmd = BitVec.ofNat 32 (h.toNat * 2 ^ 12 + b.toNat * 2 ^ 4 + 0x1) := by
    refine BitVec.eq_of_toNat_eq ?_
    rw [toNat_encode_init, BitVec.toNat_ofNat, Nat.mod_eq_of_lt (by omega)]
  exact congrArg (Command.mk · r) cmd

/-- The opcode in the word is INIT's, and the slices B and H give back what was placed there. -/
theorem dispatchOp_encode_init (b : BitVec 8) (h : BitVec 10) (r : Word) :
    dispatchOp (encode (.init b h r)) = some (.init b h r) := by
  have op : (opcode (encode (.init b h r)).cmd).toNat = 1 := (opcode_toNat _).trans (encode_cmd_mod _)
  have hb : fieldB (encode (.init b h r)).cmd = b := by
    refine BitVec.eq_of_toNat_eq ((toNat_slice _ 4 8).trans ?_)
    rw [toNat_encode_init]
    omega
  have hh : fieldH (encode (.init b h r)).cmd = h := by
    refine BitVec.eq_of_toNat_eq ((toNat_slice _ 12 10).trans ?_)
    rw [toNat_encode_init]
    omega
  rw [dispatchOp_of op, hb, hh]
  rfl

theorem decode_encode_init (b : BitVec 8) (h : BitVec 10) (r : Word) :
    decode (encode (.init b h r)) = .ok (.init b h r) :=
  have ⟨_, mask, _⟩ := Laws.EncodedWord.init b h r
  decode_ok_iff.mpr ⟨dispatchOp_encode_init b h r, mask⟩

/-! ## The obligations -/

/-- Settles O20: INIT's checks pass or the first that fails names the rejection; an INIT that passes starts from the seed,
and its word decodes to it. -/
theorem initCompletes : Obligations.InitCompletes := by
  refine ⟨fun b h r s legal => ?_, fun b h r s => ⟨fun low => ?_, fun hr bad => ?_, fun hr hb hb' bad => ?_⟩,
    fun b h r s => ?_, rejectsReserved_of_mask rfl⟩
  · rw [exec_init_of_legal legal, ivWords_eq_transform, seed_eq_ofFn]
  · exact execInit_rejects (configError_badR b h low) s
  · exact execInit_rejects (configError_badB h hr bad) s
  · exact execInit_rejects (configError_badH hr hb hb' bad) s
  · rw [← encode_init]
    exact issue_of_decode (decode_encode_init b h r) s

/-- Settles O38: INIT's checks look at its operands alone, so it is accepted from both states or from neither, and what
it then writes is made of its operands. -/
theorem initDependsOnlyOnParameters : Obligations.InitDependsOnlyOnParameters := by
  intro b h r s s' t t' ht ok ht'
  rcases execInit_cases ht with ⟨legal, rfl⟩ | ⟨_, _, rfl⟩
  · cases (execInit_accepts legal s').symm.trans ht'
    exact ⟨ivWords_eq_iv r b h, rfl, rfl, rfl, rfl, rfl, rfl, rfl, rfl⟩
  · cases ok

end Sys2Proof.Machine
end

section
/-! The padder and the blocks of a padded message (spec/42_absorb.md R160, R161). -/

namespace Sys2Proof.Machine.Pipeline

/-! ## The padding -/

/-- The zeros fill the block in which the terminator stands. -/
theorem padZeros_eq {b : Nat} (hb : 1 ≤ b) (len : Nat) : padZeros len b = b - 1 - len % b := by
  have inBlock : len % b < b := Nat.mod_lt len hb
  have next : (len + 1) % b = (len % b + 1) % b := (Nat.mod_add_mod len b 1).symm
  rcases Nat.lt_or_ge (len % b + 1) b with roomy | full
  · rw [padZeros, next, Nat.mod_eq_of_lt roomy, Nat.mod_eq_of_lt (by omega)]
    omega
  · have last : len % b + 1 = b := by omega
    rw [padZeros, next, last, Nat.mod_self, Nat.sub_zero, Nat.mod_self]
    omega

theorem padded_length {b : Nat} (hb : 1 ≤ b) (len : Nat) : len + 1 + padZeros len b = b * (len / b + 1) := by
  have inBlock : len % b < b := Nat.mod_lt len hb
  have parts := Nat.div_add_mod len b
  rw [padZeros_eq hb, Nat.mul_succ]
  omega

theorem length_pad {b : Nat} (hb : 1 ≤ b) (m : List Byte) : (pad m b).length = b * (m.length / b + 1) := by
  rw [← padded_length hb, pad, List.length_append, List.length_cons, List.length_replicate]
  omega

/-- With fewer zeros the padded message would end inside a block. -/
theorem padZeros_least {b len z : Nat} (hb : 1 ≤ b) (hz : z < padZeros len b) : (len + 1 + z) % b ≠ 0 := by
  rw [padZeros_eq hb] at hz
  have split : len + 1 + z = b * (len / b) + (len % b + 1 + z) := by
    have parts := Nat.div_add_mod len b
    omega
  rw [split, Nat.mul_add_mod, Nat.mod_eq_of_lt (by omega)]
  omega

/-! ## Full blocks and the bytes after them -/

/-- The bytes of a message after its last full block. -/
def pending (m : List Byte) (b : Nat) : List Byte := m.drop (b * (m.length / b))

theorem length_pending (m : List Byte) (b : Nat) : (pending m b).length = m.length % b := by
  have parts := Nat.div_add_mod m.length b
  rw [pending, List.length_drop]
  omega

theorem length_blocks (p : List Byte) (b : Nat) : (blocks p b).length = p.length / b := by
  rw [blocks, List.length_map, List.length_range]

theorem blocks_of_short {p : List Byte} {b : Nat} (h : p.length < b) : blocks p b = [] := by
  rw [blocks, Nat.div_eq_of_lt h, List.range_zero, List.map_nil]

theorem blocks_of_one {p : List Byte} {b : Nat} (hb : 1 ≤ b) (h : p.length = b) : blocks p b = [p] := by
  rw [blocks, h, Nat.div_self hb, ← h]
  simp

/-- After the full blocks, what is appended to a message meets its pending bytes. -/
theorem drop_append_pending (m t : List Byte) (b : Nat) :
    (m ++ t).drop (b * (m.length / b)) = pending m b ++ t :=
  List.drop_append_of_le_length (Nat.mul_div_le m.length b)

theorem div_length_append {b : Nat} (hb : 1 ≤ b) (m t : List Byte) :
    (m ++ t).length / b = m.length / b + (pending m b ++ t).length / b := by
  rw [List.length_append, List.length_append, length_pending, ← Nat.mul_add_div hb, ← Nat.add_assoc, Nat.div_add_mod]

/-- Appending leaves the full blocks alone; further ones begin with the pending bytes. -/
theorem blocks_append {b : Nat} (hb : 1 ≤ b) (m t : List Byte) :
    blocks (m ++ t) b = blocks m b ++ blocks (pending m b ++ t) b := by
  rw [blocks, div_length_append hb, List.range_add, List.map_append, List.map_map]
  congr 1
  · refine List.map_congr_left fun k hk => ?_
    have within : (k + 1) * b ≤ m.length :=
      (Nat.le_div_iff_mul_le hb).mp (List.mem_range.mp hk)
    rw [Nat.succ_mul] at within
    rw [List.drop_append_of_le_length (by omega), List.take_append_of_le_length (by rw [List.length_drop]; omega)]
  · refine List.map_congr_left fun k _ => ?_
    have place : (m.length / b + k) * b = b * (m.length / b) + k * b := by rw [Nat.add_mul, Nat.mul_comm b]
    simp only [Function.comp_apply, place, ← List.drop_drop, drop_append_pending]

theorem pending_append {b : Nat} (hb : 1 ≤ b) (m t : List Byte) :
    pending (m ++ t) b = pending (pending m b ++ t) b := by
  rw [pending, div_length_append hb, Nat.mul_add, ← List.drop_drop, drop_append_pending]
  rfl

theorem pending_of_short {p : List Byte} {b : Nat} (h : p.length < b) : pending p b = p := by
  rw [pending, Nat.div_eq_of_lt h, Nat.mul_zero, List.drop_zero]

theorem pending_of_one {p : List Byte} {b : Nat} (hb : 1 ≤ b) (h : p.length = b) : pending p b = [] := by
  rw [pending, h, Nat.div_self hb, Nat.mul_one, ← h, List.drop_length]

/-! ## The last block of a padded message -/

/-- The block that holds the terminator: the pending bytes, 0x80 and zeros (R161). -/
def lastBlock (m : List Byte) (b : Nat) : List Byte :=
  pending m b ++ 0x80 :: List.replicate (padZeros m.length b) 0

theorem length_lastBlock {b : Nat} (hb : 1 ≤ b) (m : List Byte) : (lastBlock m b).length = b := by
  have inBlock : m.length % b < b := Nat.mod_lt _ hb
  rw [lastBlock, List.length_append, length_pending, List.length_cons, List.length_replicate, padZeros_eq hb]
  omega

theorem blocks_pad {b : Nat} (hb : 1 ≤ b) (m : List Byte) : blocks (pad m b) b = blocks m b ++ [lastBlock m b] := by
  rw [pad, blocks_append hb, ← lastBlock, blocks_of_one hb (length_lastBlock hb m)]

/-! ## The obligations -/

/-- Settles O39: the padded message has b·(L/b + 1) bytes and begins with the message, and the zeros are counted from the
length alone. -/
theorem paddingContract : Obligations.PaddingContract := by
  intro b hb m
  have len := padded_length hb m.length
  refine ⟨?_, ?_, ?_, List.take_left' rfl, fun m' same => ?_⟩
  · rw [length_pad hb]
    omega
  · rw [length_pad hb, Nat.mul_mod_right]
  · rw [length_pad hb]
    omega
  · rw [pad, pad, same, List.drop_left' same, List.drop_left' rfl]

/-- Settles O40: the blocks of the padded message are the message's own and the last one. -/
theorem paddingIsLeast : Obligations.PaddingIsLeast := by
  intro b hb m
  have len := padded_length hb m.length
  refine ⟨padZeros m.length b, by simp [pad], ?_, fun z' => padZeros_least hb, length_pad hb m, ?_, ?_,
    length_pending m b, fun full => ?_⟩
  · rw [len, Nat.mul_mod_right]
  · rw [length_blocks, length_pad hb, Nat.mul_div_cancel_left _ hb]
  · rw [blocks_pad hb, List.getElem?_append_right (length_blocks m b).le, length_blocks, Nat.sub_self]
    rfl
  · rw [padZeros, full, Nat.sub_zero, Nat.mod_self]

end Sys2Proof.Machine.Pipeline
end

section
/-! The words of a block, and the block absorbed (spec/42_absorb.md R162, R163). -/

namespace Sys2Proof.Machine

open Pipeline

/-- Words whose four bytes agree are equal. -/
theorem word_ext {v w : Word} (h : ∀ t : Fin 4, v.extractLsb' (8 * t.val) 8 = w.extractLsb' (8 * t.val) 8) :
    v = w := by
  have byte (t : Fin 4) : v.toNat / 2 ^ (8 * t.val) % 2 ^ 8 = w.toNat / 2 ^ (8 * t.val) % 2 ^ 8 := by
    rw [← toNat_slice, ← toNat_slice, h]
  have h0 : v.toNat / 2 ^ 0 % 2 ^ 8 = w.toNat / 2 ^ 0 % 2 ^ 8 := byte 0
  have h1 : v.toNat / 2 ^ 8 % 2 ^ 8 = w.toNat / 2 ^ 8 % 2 ^ 8 := byte 1
  have h2 : v.toNat / 2 ^ 16 % 2 ^ 8 = w.toNat / 2 ^ 16 % 2 ^ 8 := byte 2
  have h3 : v.toNat / 2 ^ 24 % 2 ^ 8 = w.toNat / 2 ^ 24 % 2 ^ 8 := byte 3
  exact BitVec.eq_of_toNat_eq (by omega)

theorem toNat_byteAt (block : List Byte) (i : Nat) : (byteAt block i).toNat = ((block[i]?).getD 0).toNat :=
  BitVec.toNat_setWidth_of_le (by decide)

/-- Four bytes at their places stay below 2^32, so their sum does not wrap. -/
theorem toNat_wordOf (block : List Byte) (j : Nat) :
    (wordOf block j).toNat = ((block[4 * j]?).getD 0).toNat + ((block[4 * j + 1]?).getD 0).toNat * 2 ^ 8 +
      ((block[4 * j + 2]?).getD 0).toNat * 2 ^ 16 + ((block[4 * j + 3]?).getD 0).toNat * 2 ^ 24 := by
  have h0 := ((block[4 * j]?).getD 0).isLt
  have h1 := ((block[4 * j + 1]?).getD 0).isLt
  have h2 := ((block[4 * j + 2]?).getD 0).isLt
  have h3 := ((block[4 * j + 3]?).getD 0).isLt
  simp only [wordOf, BitVec.toNat_add, BitVec.toNat_shiftLeft, toNat_byteAt, Nat.shiftLeft_eq]
  omega

/-- Byte t of the sum is byte 4·j + t of the block, and 0 where the block has none. -/
theorem wordOf_byte (block : List Byte) (j : Nat) (t : Fin 4) :
    (wordOf block j).extractLsb' (8 * t.val) 8 = (block[4 * j + t.val]?).getD 0 := by
  have h0 := ((block[4 * j]?).getD 0).isLt
  have h1 := ((block[4 * j + 1]?).getD 0).isLt
  have h2 := ((block[4 * j + 2]?).getD 0).isLt
  have h3 := ((block[4 * j + 3]?).getD 0).isLt
  refine BitVec.eq_of_toNat_eq ?_
  rw [toNat_slice, toNat_wordOf]
  match t with
  | 0 | 1 | 2 | 3 =>
    simp only [Fin.isValue, Fin.coe_ofNat_eq_mod, Nat.reduceMod, Nat.reduceMul, Nat.add_zero]
    omega

/-- A block that stands at the start of BUF. -/
def StandsIn (block : List Byte) (buf : Vector Byte 128) : Prop :=
  ∀ k : Fin 128, k.val < block.length → block[k.val]? = some buf[k]

/-- Byte t of the word a block contributes is the block's byte, or 0 where it has none. -/
theorem blockWord_byte_of_standsIn {block : List Byte} {buf : Vector Byte 128} (h : StandsIn block buf)
    (j : Fin 32) (t : Fin 4) :
    (blockWord block.length buf j).extractLsb' (8 * t.val) 8 = (block[4 * j.val + t.val]?).getD 0 := by
  rw [blockWord_byte]
  by_cases there : 4 * j.val + t.val < block.length
  · rw [if_pos there, h ⟨4 * j.val + t.val, by omega⟩ there]
    rfl
  · rw [if_neg there, List.getElem?_eq_none (Nat.le_of_not_lt there)]
    rfl

theorem blockWord_eq_wordOf {block : List Byte} {buf : Vector Byte 128} (h : StandsIn block buf) (j : Fin 32) :
    blockWord block.length buf j = wordOf block j.val :=
  word_ext fun t => (blockWord_byte_of_standsIn h j t).trans (wordOf_byte block j.val t).symm

/-- A word whose first byte is past the block's end has no byte of the block. -/
theorem wordOf_past {block : List Byte} {j : Nat} (h : block.length ≤ 4 * j) : wordOf block j = 0 := by
  have gone {i : Nat} (hi : block.length ≤ i) : byteAt block i = 0 := by
    rw [byteAt, List.getElem?_eq_none hi]
    rfl
  rw [wordOf, gone h, gone (by omega), gone (by omega), gone (by omega)]
  rfl

/-- Settles O41: byte by byte the word is the block's, and past the end it has none. -/
theorem blockWordIsTheSum : Obligations.BlockWordIsTheSum := by
  intro block buf _ h j
  have sum := blockWord_eq_wordOf h j
  exact ⟨sum, fun past => sum.trans (wordOf_past (by omega))⟩

/-- The block's loop leaves out the words past the block, which would contribute 0. -/
theorem xorBlock_eq_ofFn {block : List Byte} {buf : Vector Byte 128} (h : StandsIn block buf) (x : Words) :
    xorBlock block.length buf x = Vector.ofFn fun j => x[j] ^^^ wordOf block j.val := by
  refine Vector.ext fun j hj => ?_
  rw [xorBlock_getElem, Vector.getElem_ofFn, blockWord_eq_wordOf h]
  split
  · rfl
  · simp [wordOf_past (block := block) (j := j) (by omega)]

theorem transform_xorBlock {block : List Byte} {buf : Vector Byte 128} (h : StandsIn block buf) (r : Nat) (x : Words) :
    transform r (xorBlock block.length buf x) = absorbOne r x block := by
  rw [xorBlock_eq_ofFn h, absorbOne]

end Sys2Proof.Machine
end

section
/-! ABSORB and its word (spec/42_absorb.md R164). -/

namespace Sys2Proof

/-! ## A word with one field (R83, R86) -/

theorem ofNat_field {n : Nat} (hn : n ≤ 28) (d : BitVec n) {op : Nat} (ho : op < 16) :
    BitVec.ofNat 32 (d.toNat * 2 ^ 4 + op) = d.setWidth 32 <<< 4 ||| BitVec.ofNat 32 op := by
  refine BitVec.eq_of_toNat_eq ?_
  have hd : d.toNat < 2 ^ 28 := Nat.lt_of_lt_of_le d.isLt (Nat.pow_le_pow_right (by decide) hn)
  rw [toNat_field n hn d op ho, BitVec.toNat_ofNat, Nat.mod_eq_of_lt (by omega)]
  rfl

theorem extractLsb'_field {n : Nat} (hn : n ≤ 28) (d : BitVec n) {op : Nat} (ho : op < 16) :
    (d.setWidth 32 <<< 4 ||| BitVec.ofNat 32 op).extractLsb' 4 n = d := by
  refine BitVec.eq_of_toNat_eq ?_
  have above : (d.toNat * 16 + op) / 2 ^ 4 = d.toNat := by omega
  rw [toNat_slice, toNat_field n hn d op ho, above, Nat.mod_eq_of_lt d.isLt]

theorem decode_absorb (d : Byte) (o : Word) :
    decode ⟨BitVec.ofNat 32 (d.toNat * 2 ^ 4 + 0x2), o⟩ = .ok (.absorb d) := by
  rw [ofNat_field (by decide) d (by decide)]
  have ⟨_, mask, _⟩ := Laws.EncodedWord.absorb d
  have op : (opcode (d.setWidth 32 <<< 4 ||| BitVec.ofNat 32 2)).toNat = 2 :=
    (opcode_toNat _).trans (field_mod (by decide) d (by decide))
  have byte : fieldD (d.setWidth 32 <<< 4 ||| BitVec.ofNat 32 2) = d := extractLsb'_field (by decide) d (by decide)
  refine decode_mk ?_ mask
  rw [dispatchOp_of op, byte]
  rfl

namespace Machine

/-! ## The two ends of an accepted ABSORB -/

theorem exec_absorb_of_open {s : State} (hopen : s.phase.isOpen = true) (hb : s.bcount.toNat < 128) (d : Byte) :
    exec (.absorb d) s = .next (accept (absorbIfFull (pushByte d s hb))) :=
  (if_pos hopen).trans (dif_pos hb)

/-- BCOUNT has room for the byte. -/
theorem pushByte_bcount_toNat (d : Byte) (s : State) (hb : s.bcount.toNat < 128) :
    (pushByte d s hb).bcount.toNat = s.bcount.toNat + 1 :=
  BitVec.toNat_add_of_lt (Nat.lt_trans (Nat.succ_lt_succ hb) (by decide))

theorem pushByte_full_iff (d : Byte) (s : State) (hb : s.bcount.toNat < 128) :
    (pushByte d s hb).bcount = (pushByte d s hb).cfgB ↔ s.bcount.toNat + 1 = s.cfgB.toNat := by
  rw [← BitVec.toNat_inj, pushByte_bcount_toNat, pushByte_cfgB]

/-- A byte that does not complete the block waits in BUF. -/
theorem exec_absorb_waits {s : State} (hopen : s.phase.isOpen = true) (hb : s.bcount.toNat < 128)
    (waits : s.bcount.toNat + 1 ≠ s.cfgB.toNat) (d : Byte) :
    exec (.absorb d) s = .next (accept (pushByte d s hb)) := by
  rw [exec_absorb_of_open hopen hb, absorbIfFull, if_neg fun full => waits ((pushByte_full_iff d s hb).mp full)]

/-- The byte that completes the block has it absorbed. -/
theorem exec_absorb_completes {s : State} (hopen : s.phase.isOpen = true) (hb : s.bcount.toNat < 128)
    (full : s.bcount.toNat + 1 = s.cfgB.toNat) (d : Byte) :
    exec (.absorb d) s = .next (accept (clearCount (absorbBlock (pushByte d s hb)))) := by
  rw [exec_absorb_of_open hopen hb, absorbIfFull, if_pos ((pushByte_full_iff d s hb).mpr full)]

theorem exec_absorb_closed {s : State} (hclosed : s.phase.isOpen = false) (d : Byte) :
    exec (.absorb d) s = .next (reject .phase s) :=
  if_neg (Bool.not_eq_true _ ▸ hclosed)

/-- STATUS in ABSORBING with no byte pending. -/
theorem status_absorbing_empty {s : State} (hb : s.bcount = 0) (hp : s.phase = .absorbing) :
    s.status = s.err.setWidth 32 <<< 4 ||| 2#32 := by
  have empty : (0 : BitVec 8).setWidth 32 <<< 8 = (0 : Word) := rfl
  rw [State.status, hb, hp, empty, BitVec.ofNat_eq_ofNat, BitVec.zero_or]
  rfl

/-- Settles O21: the count reaches CFG_B or it does not, and the word of ABSORB decodes to it. -/
theorem absorbCompletes : Obligations.AbsorbCompletes := by
  refine ⟨fun d s hb hopen waits => ⟨_, ?_, rfl⟩, fun d s hb hopen full => ⟨_, ?_, rfl⟩, fun d s hclosed => ?_,
    fun d o s => issue_of_decode (decode_absorb d o) s, rejectsReserved_of_mask rfl⟩
  · exact exec_absorb_waits ((isOpen_iff _).mpr hopen) hb waits d
  · rw [exec_absorb_completes ((isOpen_iff _).mpr hopen) hb full, accept,
      status_absorbing_empty (clearCount_bcount _) ((clearCount_phase _).trans (absorbBlock_phase _))]
    rfl
  · exact exec_absorb_closed ((isOpen_false_iff _).mpr hclosed) d

end Machine
end Sys2Proof
end

section
/-! INIT, the ABSORBs of a message and FINAL: what they compute and the rounds they take (spec/42_absorb.md R165, R166,
spec/43_finalize.md R190 to R193, spec/70_reset_and_hazards.md R296). -/

namespace Sys2Proof.Machine

open Pipeline

/-! ## Blocks in BUF -/

theorem StandsIn.append_set {block : List Byte} {buf : Vector Byte 128} {n : Nat} (h : StandsIn block buf)
    (hn : n = block.length) (room : n < 128) (d : Byte) : StandsIn (block ++ [d]) (buf.set n d room) := by
  subst hn
  intro k hk
  rw [List.length_append, List.length_singleton] at hk
  rcases Nat.lt_or_eq_of_le (Nat.le_of_lt_succ hk) with old | new
  · simpa [List.getElem?_append_left old, Vector.getElem_set_ne (h := Nat.ne_of_gt old)] using h k old
  · simp [new]

/-- The padding FINAL writes makes the pending bytes the message's last block (R190, R191). -/
theorem standsIn_lastBlock {m : List Byte} {b n : Nat} {buf : Vector Byte 128} (hb : 1 ≤ b)
    (h : StandsIn (pending m b) buf) (hn : n = (pending m b).length) :
    StandsIn (lastBlock m b) (padBytes n b buf) := by
  intro k hk
  rw [length_lastBlock hb] at hk
  rw [lastBlock, Fin.getElem_fin, padBytes_getElem]
  rcases Nat.lt_trichotomy k.val n with before | terminator | after
  · rw [List.getElem?_append_left (by omega), h k (by omega), if_neg (by omega), if_neg (by omega)]
    rfl
  · rw [List.getElem?_append_right (by omega), if_pos terminator, ← hn, terminator, Nat.sub_self]
    rfl
  · obtain ⟨i, hi⟩ : ∃ i, k.val - n = i + 1 := ⟨k.val - n - 1, by omega⟩
    have zero : i < padZeros m.length b := by
      rw [length_pending] at hn
      rw [padZeros_eq hb]
      omega
    rw [List.getElem?_append_right (by omega), if_neg (by omega), if_pos (by omega), ← hn, hi,
      List.getElem?_cons_succ, List.getElem?_replicate_of_lt zero]

/-! ## Sequences of commands -/

theorem execAll_cons {i : Instr} {s u : State} (h : exec i s = .next u) (js : List Instr) :
    execAll (i :: js) s = execAll js u := by
  rw [execAll, h]

theorem workAll_cons {i : Instr} {s u : State} (h : exec i s = .next u) (js : List Instr) :
    workAll (i :: js) s = workRounds i s + workAll js u := by
  rw [workAll, h]

/-- A sequence that does not stop has a first command that does not. -/
theorem execAll_cons_cases {i : Instr} {is : List Instr} {s u : State} (h : execAll (i :: is) s = .next u) :
    ∃ t, exec i s = .next t ∧ execAll is t = .next u := by
  rw [execAll] at h
  split at h
  · exact ⟨_, ‹_›, h⟩
  · cases h
  · cases h

/-- Where the first commands do not stop, the others follow on the state they left, and the rounds add up. -/
theorem execAll_append {is : List Instr} {s u : State} (h : execAll is s = .next u) (js : List Instr) :
    execAll (is ++ js) s = execAll js u ∧ workAll (is ++ js) s = workAll is s + workAll js u := by
  induction is generalizing s with
  | nil =>
    cases h
    exact ⟨rfl, (Nat.zero_add _).symm⟩
  | cons i is ih =>
    obtain ⟨t, first, rest⟩ := execAll_cons_cases h
    obtain ⟨state, work⟩ := ih rest
    rw [List.cons_append, execAll_cons first, workAll_cons first, workAll_cons first, work, Nat.add_assoc]
    exact ⟨state, rfl⟩

/-! ## The rounds of ABSORB and FINAL (R296) -/

theorem permitted_absorb (d : Byte) (p : Phase) : permitted (.absorb d) p = p.isOpen := by cases p <;> rfl

theorem permitted_final (p : Phase) : permitted .final p = p.isOpen := by cases p <;> rfl

/-- An accepted ABSORB takes r rounds for each block it completes, which is one or none. -/
theorem workRounds_absorb {s : State} (hopen : s.phase.isOpen = true) (below : s.bcount.toNat < s.cfgB.toNat)
    (d : Byte) : workRounds (.absorb d) s = (s.bcount.toNat + 1) / s.cfgB.toNat * s.cfgR.toNat := by
  have reaches : s.bcount.toNat + 1 ≤ s.cfgB.toNat := below
  rw [workRounds, permitted_absorb]
  rcases Nat.lt_or_eq_of_le reaches with waits | full
  · rw [if_neg fun ⟨_, full⟩ => Nat.ne_of_lt waits full, Nat.div_eq_of_lt waits, Nat.zero_mul]
  · rw [if_pos ⟨hopen, full⟩, full, Nat.div_self (Nat.zero_lt_of_lt below), Nat.one_mul]

theorem workRounds_final {s : State} (hopen : s.phase.isOpen = true) :
    workRounds .final s = 11 * s.cfgR.toNat := by
  rw [workRounds, permitted_final, if_pos hopen]

theorem workRounds_init {b : BitVec 8} {h : BitVec 10} {r : Word} (legal : Legal r.toNat b.toNat h.toNat) (s : State) :
    workRounds (.init b h r) s = 10 * r.toNat :=
  if_pos (configError_none_of_legal legal)

/-! ## FINAL -/

theorem exec_final_of_open {s : State} (hopen : s.phase.isOpen = true) (fits : s.blockFits = true) :
    exec .final s = .next (accept (finish (clearCount (absorbBlock (padBlock s))))) :=
  (if_pos hopen).trans (if_pos fits)

theorem flipEnd_eq_ofFn (x : Words) : flipEnd x = Vector.ofFn fun j => if j.val = 31 then x[j] ^^^ 1 else x[j] := by
  refine Vector.ext fun j hj => ?_
  rw [flipEnd_getElem, Vector.getElem_ofFn]
  rfl

/-- Ten calls of T(CFG_R) are T(10·CFG_R) (R193). -/
theorem finish_x_eq (s : State) : (finish s).x = transform (10 * s.cfgR.toNat)
    (Vector.ofFn fun j => if j.val = 31 then s.x[j] ^^^ 1 else s.x[j]) := by
  rw [finish_x, times_transform, flipEnd_eq_ofFn]

theorem absorbAll_concat (r b h : Nat) (bs : List (List Byte)) (block : List Byte) :
    absorbAll r b h (bs ++ [block]) = absorbOne r (absorbAll r b h bs) block :=
  List.foldl_concat ..

/-! ## The state while a message arrives -/

/-- What INIT (b, h, r) on `s` and one ABSORB per byte of `m` leave (R165): X is the IV with the full blocks absorbed, BUF
holds the bytes after them, and BCOUNT counts those. -/
structure Absorbed (b : BitVec 8) (h : BitVec 10) (r : Word) (s : State) (m : List Byte) (u : State) : Prop where
  cfgR : u.cfgR = r
  cfgB : u.cfgB = b
  cfgH : u.cfgH = h
  err : u.err = 0
  stream : u.stream = s.stream
  phase : u.phase = if m = [] then .inited else .absorbing
  words : u.x = absorbAll r.toNat b.toNat h.toNat (blocks m b.toNat)
  count : u.bcount.toNat = (pending m b.toNat).length
  bytes : StandsIn (pending m b.toNat) u.buf

section
variable {b : BitVec 8} {h : BitVec 10} {r : Word} {s u : State} {m : List Byte}

theorem Absorbed.isOpen (a : Absorbed b h r s m u) : u.phase.isOpen = true := by
  rw [a.phase]
  split <;> rfl

theorem Absorbed.count_eq_mod (a : Absorbed b h r s m u) : u.bcount.toNat = m.length % b.toNat :=
  a.count.trans (length_pending m b.toNat)

theorem exec_init_absorbed (legal : Legal r.toNat b.toNat h.toNat) (s : State) :
    ∃ u, exec (.init b h r) s = .next u ∧ Absorbed b h r s [] u := by
  have ⟨_, _, hb, _⟩ := legal
  have noBlock : blocks [] b.toNat = [] := blocks_of_short hb
  have noByte : pending [] b.toNat = [] := List.drop_nil
  refine ⟨_, exec_init_of_legal legal s, rfl, rfl, rfl, rfl, rfl, rfl, ?_, ?_, ?_⟩
  · rw [noBlock]
    exact ivWords_eq_iv r b h
  · rw [noByte]
    rfl
  · rw [noByte]
    exact nofun

/-- A byte that does not complete the block joins the pending ones. -/
theorem Absorbed.push_waits (a : Absorbed b h r s m u) (hb : 1 ≤ b.toNat) (room : u.bcount.toNat < 128)
    (waits : u.bcount.toNat + 1 < b.toNat) (d : Byte) : Absorbed b h r s (m ++ [d]) (accept (pushByte d u room)) := by
  have short : (pending m b.toNat ++ [d]).length < b.toNat := by
    rw [List.length_append, ← a.count]
    exact waits
  refine ⟨a.cfgR, a.cfgB, a.cfgH, a.err, a.stream, by simp, ?_, ?_, ?_⟩
  · rw [blocks_append hb, blocks_of_short short, List.append_nil]
    exact a.words
  · rw [pending_append hb, pending_of_short short, List.length_append, ← a.count]
    exact pushByte_bcount_toNat d u room
  · rw [pending_append hb, pending_of_short short]
    exact a.bytes.append_set a.count room d

/-- With the byte that completes it, the pending bytes are the next block, and none is left. -/
theorem Absorbed.push_completes (a : Absorbed b h r s m u) (hb : 1 ≤ b.toNat) (room : u.bcount.toNat < 128)
    (full : u.bcount.toNat + 1 = b.toNat) (d : Byte) :
    Absorbed b h r s (m ++ [d]) (accept (clearCount (absorbBlock (pushByte d u room)))) := by
  have one : (pending m b.toNat ++ [d]).length = b.toNat := by
    rw [List.length_append, ← a.count]
    exact full
  have block := transform_xorBlock (a.bytes.append_set a.count room d) r.toNat u.x
  have noByte : pending (m ++ [d]) b.toNat = [] := by rw [pending_append hb, pending_of_one hb one]
  refine ⟨a.cfgR, a.cfgB, a.cfgH, a.err, a.stream, by simp, ?_, ?_, ?_⟩
  · rw [blocks_append hb, blocks_of_one hb one, absorbAll_concat, ← a.words, ← block, one, ← a.cfgR, ← a.cfgB]
    exact absorbBlock_x _
  · rw [noByte]
    rfl
  · rw [noByte]
    exact nofun

theorem Absorbed.count_lt (a : Absorbed b h r s m u) (hb : 1 ≤ b.toNat) : u.bcount.toNat < b.toNat := by
  rw [a.count_eq_mod]
  exact Nat.mod_lt _ hb

theorem Absorbed.exec_absorb (a : Absorbed b h r s m u) (legal : Legal r.toNat b.toNat h.toNat) (d : Byte) :
    ∃ v, exec (.absorb d) u = .next v ∧ Absorbed b h r s (m ++ [d]) v := by
  obtain ⟨_, _, hb, hb', _⟩ := legal
  have below := a.count_lt hb
  have room : u.bcount.toNat < 128 := Nat.lt_of_lt_of_le below hb'
  rcases Nat.lt_or_eq_of_le (Nat.succ_le_of_lt below) with waits | full
  · exact ⟨_, exec_absorb_waits a.isOpen room (a.cfgB ▸ Nat.ne_of_lt waits) d, a.push_waits hb room waits d⟩
  · exact ⟨_, exec_absorb_completes a.isOpen room (a.cfgB ▸ full) d, a.push_completes hb room full d⟩

/-- The rounds up to a byte, and those of its ABSORB, are r for each full block. -/
theorem Absorbed.work_absorb (a : Absorbed b h r s m u) (hb : 1 ≤ b.toNat) (d : Byte) :
    m.length / b.toNat * r.toNat + workRounds (.absorb d) u = (m ++ [d]).length / b.toNat * r.toNat := by
  rw [workRounds_absorb a.isOpen (a.cfgB ▸ a.count_lt hb), div_length_append hb, List.length_append, ← a.count, a.cfgB,
    a.cfgR, Nat.add_mul]
  rfl

/-- The bytes of a message one after the other, from any point of it. -/
theorem Absorbed.execAll_absorbs (a : Absorbed b h r s m u) (legal : Legal r.toNat b.toNat h.toNat) (m' : List Byte) :
    ∃ v, execAll (m'.map .absorb) u = .next v ∧ Absorbed b h r s (m ++ m') v ∧
      m.length / b.toNat * r.toNat + workAll (m'.map .absorb) u = (m ++ m').length / b.toNat * r.toNat := by
  induction m' generalizing m u with
  | nil => exact ⟨u, rfl, (List.append_nil m).symm ▸ a, by rw [List.append_nil]; rfl⟩
  | cons d m' ih =>
    have ⟨_, _, hb, _⟩ := legal
    obtain ⟨v, one, av⟩ := a.exec_absorb legal d
    obtain ⟨w, rest, aw, work⟩ := ih av
    rw [List.append_assoc, List.singleton_append] at aw work
    refine ⟨w, (execAll_cons one _).trans rest, aw, ?_⟩
    rw [List.map_cons, workAll_cons one, ← Nat.add_assoc, a.work_absorb hb, work]

/-- FINAL absorbs the last block of the padded message and finalizes. -/
theorem Absorbed.exec_final (a : Absorbed b h r s m u) (legal : Legal r.toNat b.toNat h.toNat) :
    ∃ t, exec .final u = .next t ∧ t.x = finalState r.toNat b.toNat h.toNat m ∧
      t.phase = .output ∧ t.cfgH = h ∧ t.bcount = 0 ∧ t.err = 0 ∧ t.stream = s.stream := by
  obtain ⟨_, _, hb, hb', _⟩ := legal
  have fits : u.blockFits = true :=
    decide_eq_true ⟨Nat.lt_of_lt_of_le (a.count_lt hb) hb', by rw [a.cfgB]; exact hb'⟩
  have block := transform_xorBlock (standsIn_lastBlock hb a.bytes a.count) r.toNat u.x
  have words : (clearCount (absorbBlock (padBlock u))).x =
      absorbAll r.toNat b.toNat h.toNat (blocks (pad m b.toNat) b.toNat) := by
    rw [blocks_pad hb, absorbAll_concat, ← a.words, ← block, length_lastBlock hb, ← a.cfgR, ← a.cfgB]
    simp
  refine ⟨_, exec_final_of_open a.isOpen fits, ?_, by simp, by simp [a.cfgH], by simp, by simp [a.err],
    by simp [a.stream]⟩
  rw [accept_x, finish_x_eq, words, finalState, ← a.cfgR]
  simp

/-- INIT and the ABSORBs of a whole message. -/
theorem execAll_init_absorbs (legal : Legal r.toNat b.toNat h.toNat) (m : List Byte) (s : State) :
    ∃ u, execAll (.init b h r :: m.map .absorb) s = .next u ∧ Absorbed b h r s m u ∧
      workAll (.init b h r :: m.map .absorb) s = (10 + m.length / b.toNat) * r.toNat := by
  obtain ⟨i, init, ai⟩ := exec_init_absorbed legal s
  obtain ⟨u, absorbs, au, work⟩ := ai.execAll_absorbs legal m
  refine ⟨u, (execAll_cons init _).trans absorbs, au, ?_⟩
  rw [workAll_cons init, workRounds_init legal, Nat.add_mul]
  simpa using work

end

/-! ## The obligations -/

/-- Settles O45: the state after INIT and the ABSORBs is that of the full blocks, and FINAL completes the last one. -/
theorem blockComputesThePipeline : Obligations.BlockComputesThePipeline := by
  intro b h r m s legal
  have ⟨_, _, hb, _⟩ := legal
  obtain ⟨u, run, a, _⟩ := execAll_init_absorbs legal m s
  obtain ⟨t, final, result⟩ := a.exec_final legal
  refine ⟨u, t, run, final, (execAll_append run [.final]).1.trans (execAll_cons final []), ?_, a.count_eq_mod,
    fun j hj => ?_, a.phase, result⟩
  · rw [blocks_pad hb, List.take_left' (length_blocks m b.toNat)]
    exact a.words
  · rw [← List.getElem?_drop]
    exact a.bytes j (a.count ▸ hj)

/-- Settles O50: r rounds for each full block, and FINAL's eleven times r make up the last one and the finalization. -/
theorem workOfAComputation : Obligations.WorkOfAComputation := by
  intro b h r m s legal
  obtain ⟨u, run, a, work⟩ := execAll_init_absorbs legal m s
  obtain ⟨t, final, _⟩ := a.exec_final legal
  calc workAll (.init b h r :: (m.map Instr.absorb ++ [Instr.final])) s
      = workAll (.init b h r :: m.map .absorb) s + workAll [.final] u := (execAll_append run [.final]).2
    _ = (10 + m.length / b.toNat) * r.toNat + 11 * r.toNat := by
      rw [work, workAll_cons final, workRounds_final a.isOpen, a.cfgR, workAll, Nat.add_zero]
    _ = (m.length / b.toNat + 1) * r.toNat + 20 * r.toNat := by ring

end Sys2Proof.Machine
end

section
/-! FINAL and its word (spec/43_finalize.md R190 to R193). -/

namespace Sys2Proof.Machine

theorem exec_final_closed {s : State} (hclosed : s.phase.isOpen = false) : exec .final s = .next (reject .phase s) :=
  if_neg (Bool.not_eq_true _ ▸ hclosed)

/-- With no byte pending STATUS has ERR and PHASE alone. -/
theorem status_of_empty {s : State} (hb : s.bcount = 0) :
    s.status = s.err.setWidth 32 <<< 4 ||| s.phase.code.setWidth 32 := by
  have empty : (0 : BitVec 8).setWidth 32 <<< 8 = (0 : Word) := rfl
  rw [State.status, hb, empty, BitVec.ofNat_eq_ofNat, BitVec.zero_or]

/-- The Finalizer works on X after the padded block has been absorbed (R190, R192, R193). -/
theorem finish_absorbBlock_padBlock_x (s : State) :
    let y := transform s.cfgR.toNat (xorBlock s.cfgB.toNat (padBytes s.bcount.toNat s.cfgB.toNat s.buf) s.x)
    (finish (clearCount (absorbBlock (padBlock s)))).x =
      transform (10 * s.cfgR.toNat) (Vector.ofFn fun j => if j.val = 31 then y[j] ^^^ 0x00000001#32 else y[j]) := by
  rw [finish_x_eq, clearCount_x, clearCount_cfgR, absorbBlock_x, absorbBlock_cfgR, padBlock_x, padBlock_buf,
    padBlock_cfgR, padBlock_cfgB]
  rfl

/-- Settles O22: FINAL pads BUF, absorbs it and finalizes where its block fits, and its word decodes to it. -/
theorem finalCompletes : Obligations.FinalCompletes := by
  refine ⟨fun s hopen room block => ⟨_, _, _, ?_, fun j => padBytes_getElem _ _ s.buf j j.isLt,
      finish_absorbBlock_padBlock_x s, rfl⟩,
    fun s hclosed => exec_final_closed ((isOpen_false_iff _).mpr hclosed), fun o s => issue_of_decode ?_ s,
    rejectsReserved_of_mask rfl⟩
  · rw [exec_final_of_open ((isOpen_iff _).mpr hopen) (decide_eq_true ⟨room, block⟩), accept,
      status_of_empty ((finish_bcount _).trans (clearCount_bcount _))]
    simp [respond, Phase.code]
  · exact decode_mk rfl (by decide)

end Sys2Proof.Machine
end

section
/-! RDDIGEST and its word, and OUTPUT (spec/44_output.md R211, R212). -/

namespace Sys2Proof

/-! ## A word with one field (R83, R86) -/

/-- A word made of an opcode and a field of `n` bits above it decodes to the instruction of that opcode and that field:
the format has no other field, so its reserved bits, `mask` from the field's end up, are 0. -/
theorem decode_of_field {n op : Nat} (mask : Nat) (d : BitVec n) (o : Word) {instr : BitVec n → Instr}
    (reads : ∀ w : Word, (opcode w).toNat = op → dispatchOp ⟨w, o⟩ = some (instr (w.extractLsb' 4 n)))
    (hn : n ≤ 28 := by decide) (ho : op < 9 := by decide)
    (hm : resMask (BitVec.ofNat 4 op) = BitVec.ofNat 32 mask <<< (4 + n) := by decide) :
    decode ⟨d.setWidth 32 <<< 4 ||| BitVec.ofNat 32 op, o⟩ = .ok (instr d) := by
  have small : op < 16 := Nat.lt_trans ho (by decide)
  have ⟨_, clear⟩ := Laws.EncodedWord.of_field n hn d op mask ho hm
  have fields := reads _ ((opcode_toNat _).trans (field_mod hn d small))
  rw [extractLsb'_field hn d small] at fields
  exact decode_mk fields clear

theorem decode_rddigest (k : BitVec 7) (o : Word) : decode ⟨(encode (.rddigest k)).cmd, o⟩ = .ok (.rddigest k) :=
  decode_of_field 0x1FFFFF k o fun w => dispatchOp_of (c := ⟨w, o⟩)

namespace Machine

/-! ## RDDIGEST -/

/-- A byte of a word, zero-extended, is the word shifted down and masked. -/
theorem setWidth_extractLsb'_byte (w : Word) (start : Nat) :
    (w.extractLsb' start 8).setWidth 32 = (w >>> start) &&& 0x000000FF := by
  have mask : (0x000000FF : Word).toNat = 2 ^ 8 - 1 := rfl
  refine BitVec.eq_of_toNat_eq ?_
  rw [BitVec.toNat_setWidth_of_le (by decide), BitVec.extractLsb'_toNat, BitVec.toNat_and, BitVec.toNat_ushiftRight,
    mask, Nat.and_two_pow_sub_one_eq_mod]

theorem exec_rddigest_of_output {k : BitVec 7} {s : State} (hp : s.phase = .output)
    (hk : k.toNat < s.cfgH.toNat / 8) :
    exec (.rddigest k) s = .next (respond true ((digestByte s.x k).setWidth 32) s) :=
  (if_pos hp).trans (if_pos hk)

/-- Settles O26: RDDIGEST's two checks have three answers, the byte read is its word shifted and masked, and its word
decodes to it. -/
theorem rddigestCompletes : Obligations.RddigestCompletes := by
  refine ⟨fun k s hp hk => ?_, fun k s hp => if_neg hp,
    fun k s hp hk => (if_pos hp).trans (if_neg (Nat.not_lt.mpr hk)),
    fun k o s => issue_of_decode ?_ s, rejectsReserved_of_mask rfl⟩
  · rw [exec_rddigest_of_output hp hk, digestByte, setWidth_extractLsb'_byte]
    rfl
  · rw [ofNat_field (by decide) k (by decide)]
    exact decode_rddigest k o

/-! ## OUTPUT -/

theorem exec_perm_closed {s : State} (hclosed : s.phase.isOpen = false) (n : Word) :
    exec (.perm n) s = .next (reject .phase s) :=
  if_neg (Bool.not_eq_true _ ▸ hclosed)

theorem exec_wrstate_closed {s : State} (hclosed : s.phase.isOpen = false) (j : BitVec 5) (v : Word) :
    exec (.wrstate j v) s = .next (reject .phase s) :=
  if_neg (Bool.not_eq_true _ ▸ hclosed)

/-- While no block is open, a command other than INIT is a read or is not permitted (R264). -/
theorem read_or_rejected_of_closed {i : Instr} {s : State} (hclosed : s.phase.isOpen = false)
    (hi : ∀ b h r, i ≠ .init b h r) :
    (i = .nop ∨ (∃ j, i = .rdstate j) ∨ (∃ k, i = .rddigest k) ∨ ∃ c, i = .rdcsr c) ∨
      exec i s = .next (reject .phase s) := by
  cases i with
  | nop => exact .inl (.inl rfl)
  | init b h r => exact absurd rfl (hi b h r)
  | absorb d => exact .inr (exec_absorb_closed hclosed d)
  | final => exact .inr (exec_final_closed hclosed)
  | perm n => exact .inr (exec_perm_closed hclosed n)
  | rdstate j => exact .inl (.inr (.inl ⟨j, rfl⟩))
  | wrstate j v => exact .inr (exec_wrstate_closed hclosed j v)
  | rddigest k => exact .inl (.inr (.inr (.inl ⟨k, rfl⟩)))
  | rdcsr c => exact .inl (.inr (.inr (.inr ⟨c, rfl⟩)))

/-- While no block is open, a command other than INIT leaves PHASE, X and CFG_H alone. -/
theorem exec_keeps_of_closed {i : Instr} {s t : State} (hclosed : s.phase.isOpen = false)
    (hi : ∀ b h r, i ≠ .init b h r) (h : exec i s = .next t) :
    t.phase = s.phase ∧ t.x = s.x ∧ t.cfgH = s.cfgH := by
  rcases read_or_rejected_of_closed hclosed hi with read | rejected
  · obtain ⟨⟨words, _, _, phase, _, _, size, _⟩, _⟩ := readsHaveNoSideEffects i s t read h
    exact ⟨phase, words, size⟩
  · cases h.symm.trans rejected
    exact ⟨rfl, rfl, rfl⟩

/-- Settles O44: without an input the block is idle, and a command that is no INIT is rejected by the decoder, or
a read, or not permitted in OUTPUT. -/
theorem digestIsImmutable : Obligations.DigestIsImmutable := by
  intro s t hp h noReset noAbort noInit
  rcases step_cases h with ⟨_, rfl⟩ | ⟨c, rest, hs, hc⟩ | ⟨input, rest, hs, rfl | ⟨c, rfl⟩, _⟩
  · exact ⟨hp, rfl, rfl⟩
  · rcases issue_cases hc with ⟨e, _, rfl⟩ | ⟨i, hi, hx⟩
    · exact ⟨(decodeReject_phase e _).trans hp, rfl, rfl⟩
    · have other (b h r) : i ≠ .init b h r := fun e => noInit c rest b h r hs (e ▸ hi)
      have closed : ({ s with stream := rest } : State).phase.isOpen = false := (isOpen_false_iff _).mpr (.inr hp)
      obtain ⟨phase, words, size⟩ := exec_keeps_of_closed closed other hx
      exact ⟨phase.trans hp, words, size⟩
  · exact absurd hs (noReset rest)
  · exact absurd hs (noAbort c rest)

end Machine
end Sys2Proof
end

section
/-! The assembler on a command's line, and a host that issues assembled commands (spec/30_encoding.md R94, R96). -/

namespace Sys2Proof

/-! ## The words of an instruction -/

/-- The decoder reads an instruction back from its words. -/
theorem decode_encode (i : Instr) : decode (encode i) = .ok i := by
  cases i with
  | nop => exact decode_mk rfl (by decide)
  | init b h r => exact Machine.decode_encode_init b h r
  | absorb d => exact decode_of_field 0xFFFFF d 0 fun w => dispatchOp_of (c := ⟨w, 0⟩)
  | final => exact decode_mk rfl (by decide)
  | perm n => exact decode_mk rfl (by decide)
  | rdstate j => exact decode_of_field 0x7FFFFF j 0 fun w => dispatchOp_of (c := ⟨w, 0⟩)
  | wrstate j v =>
    exact decode_of_field 0x7FFFFF j v (op := 6) (instr := (.wrstate · v)) fun w => dispatchOp_of (c := ⟨w, v⟩)
  | rddigest k => exact decode_rddigest k 0
  | rdcsr c => exact decode_of_field 0xFFFFF c 0 fun w => dispatchOp_of (c := ⟨w, 0⟩)

/-! ## The line of an instruction -/

theorem ofNat_shiftLeft (n k : Nat) : BitVec.ofNat 32 (n <<< k) = BitVec.ofNat 32 n <<< k := by
  refine BitVec.eq_of_toNat_eq ?_
  simp only [BitVec.toNat_shiftLeft, BitVec.toNat_ofNat, Nat.shiftLeft_eq, Nat.mod_mul_mod]

namespace Machine

/-- The numbers of an instruction's line are its fields, so each fits. -/
theorem toAsm_wellFormed (i : Instr) : i.toAsm.wellFormed = true := by
  cases i with
  | nop => rfl
  | init b h r => exact decide_eq_true ⟨r.isLt, b.isLt, h.isLt⟩
  | absorb d => exact decide_eq_true d.isLt
  | final => rfl
  | perm n => exact decide_eq_true n.isLt
  | rdstate j => exact decide_eq_true j.isLt
  | wrstate j v => exact decide_eq_true ⟨j.isLt, v.isLt⟩
  | rddigest k => exact decide_eq_true k.isLt
  | rdcsr c => exact decide_eq_true c.isLt

theorem lineWords_toAsm (i : Instr) : lineWords i.toAsm = encode i := by
  cases i <;> simp [Instr.toAsm, lineWords, pairOf, encode, BitVec.ofNat_or, ofNat_shiftLeft]

theorem assembleLine_toAsm (i : Instr) : assembleLine i.toAsm = some (encode i) := by
  rw [assembleLine, if_pos (toAsm_wellFormed i), lineWords_toAsm]

/-- A statement whose expansion is a list of instructions assembles to their words. -/
theorem assemble_of_expand {a : AsmStmt} {is : List Instr} (h : expand a = is.map Instr.toAsm) :
    assemble a = some (is.map encode) := by
  have line : assembleLine ∘ Instr.toAsm = fun i => pure (encode i) := funext assembleLine_toAsm
  rw [assemble, h, List.mapM_map, line, List.mapM_pure]
  rfl

/-! ## Runs in which every command is accepted -/

/-- The instructions `is`, from `s` on, are all accepted, respond `rs` and end in the last state. -/
inductive Accepts : List Instr → State → List Response → State → Prop
  | nil (s : State) : Accepts [] s [] s
  | cons {i : Instr} {is : List Instr} {s u t : State} {rs : List Response} :
      exec i s = .next u → u.rspOk = true → Accepts is u rs t → Accepts (i :: is) s (u.response :: rs) t

/-- A host that issues their words is never stopped. -/
theorem Accepts.hostRun_eq {is : List Instr} {s t : State} {rs : List Response} (a : Accepts is s rs t) :
    hostRun (is.map encode) s = some (rs, t) := by
  induction a with
  | nil s => rfl
  | cons h ok _ ih =>
    rw [List.map_cons, hostRun, issue_of_decode (decode_encode _), h]
    simp only [ok, ih, if_true, Option.map_some]

theorem Accepts.length_eq {is : List Instr} {s t : State} {rs : List Response} (a : Accepts is s rs t) :
    rs.length = is.length := by
  induction a with
  | nil s => rfl
  | cons _ _ _ ih => exact congrArg (· + 1) ih

theorem Accepts.all_ok {is : List Instr} {s t : State} {rs : List Response} (a : Accepts is s rs t) :
    ∀ q ∈ rs, q.ok = true := by
  induction a with
  | nil s => exact nofun
  | cons _ ok _ ih => exact List.forall_mem_cons.mpr ⟨ok, ih⟩

theorem Accepts.append {is js : List Instr} {s u t : State} {rs qs : List Response} (a : Accepts is s rs u)
    (b : Accepts js u qs t) : Accepts (is ++ js) s (rs ++ qs) t := by
  induction a with
  | nil s => exact b
  | cons h ok _ ih => exact .cons h ok (ih b)

/-- A command other than INIT that leaves ERR clear was accepted and found ERR clear (R40, R268). -/
theorem accepted_of_err_clear {i : Instr} {s t : State} (h : exec i s = .next t) (hi : ∀ b h r, i ≠ .init b h r)
    (clear : t.err = 0) : t.rspOk = true ∧ s.err = 0 := by
  rcases exec_ends h with ⟨ok, _, _, _, err⟩ | ⟨code, rfl, _⟩
  · refine ⟨ok, ?_⟩
    rw [← clear, err]
    cases i with
    | init b g r => exact absurd rfl (hi b g r)
    | nop | absorb _ | final | perm _ | rdstate _ | wrstate _ _ | rddigest _ | rdcsr _ => rfl
  · have ⟨positive, _⟩ := code_range code
    have zero : code.code = 0 := clear
    rw [zero] at positive
    exact absurd positive (by decide)

/-- ERR clear at the end of a run without an INIT shows that every command of it was accepted. -/
theorem accepts_of_err_clear {is : List Instr} {s t : State} (run : execAll is s = .next t)
    (noInit : ∀ b h r, .init b h r ∉ is) (clear : t.err = 0) : s.err = 0 ∧ ∃ rs, Accepts is s rs t := by
  induction is generalizing s with
  | nil =>
    cases run
    exact ⟨clear, _, .nil _⟩
  | cons i is ih =>
    obtain ⟨u, first, rest⟩ := execAll_cons_cases run
    obtain ⟨clear, _, a⟩ := ih rest fun b h r later => noInit b h r (List.mem_cons_of_mem i later)
    have other (b h r) : i ≠ .init b h r := fun e => noInit b h r (e ▸ List.mem_cons_self)
    obtain ⟨ok, clear⟩ := accepted_of_err_clear first other clear
    exact ⟨clear, _, .cons first ok a⟩

end Machine
end Sys2Proof
end

section
/-! The digest of a message, and the pseudo-instruction `hash` (spec/44_output.md R210, R213, R214). -/

namespace Sys2Proof.Machine

open Pipeline

/-! ## The digest and its rendering -/

/-- The indices of a digest of n bytes, for n up to 128. -/
def digestIndices (n : Nat) : List (BitVec 7) := (List.range n).map (BitVec.ofNat 7)

theorem toNat_lt_of_mem_digestIndices {n : Nat} {k : BitVec 7} (hk : k ∈ digestIndices n) : k.toNat < n := by
  obtain ⟨j, hj, rfl⟩ := List.mem_map.mp hk
  exact Nat.lt_of_le_of_lt (Nat.mod_le j _) (List.mem_range.mp hj)

/-- The source's digest is the bytes RDDIGEST reads from the final state, in index order. -/
theorem hash_eq_digestBytes {r b h : Nat} (legal : Legal r b h) (m : List Byte) :
    Pipeline.hash r b h m = (digestIndices (h / 8)).map (digestByte (finalState r b h m)) := by
  obtain ⟨_, _, _, _, _, hh, _⟩ := legal
  rw [Pipeline.hash, ← digestIsTheSerialisation _ _ (by omega), digestIndices, List.map_map]
  rfl

theorem length_hash {r b h : Nat} (legal : Legal r b h) (m : List Byte) : (Pipeline.hash r b h m).length = h / 8 := by
  rw [hash_eq_digestBytes legal, List.length_map, digestIndices, List.length_map, List.length_range]

/-- Two characters for each byte. -/
theorem length_renderHex (digest : List Byte) : (renderHex digest).length = digest.length * 2 := by
  simp [renderHex, List.length_flatMap]

/-- Settles O49: h/8 bytes and two characters for each, which are h/4 as 8 divides h. -/
theorem digestLength : Obligations.DigestLength := by
  intro r b h m legal
  have ⟨_, _, _, _, _, _, whole⟩ := legal
  refine ⟨length_hash legal m, ?_⟩
  rw [length_renderHex, length_hash legal]
  omega

/-! ## The commands of `hash` -/

/-- The commands of `hash r, b, h, "m"` up to FINAL. -/
def computation (b : BitVec 8) (h : BitVec 10) (r : Word) (m : List Byte) : List Instr :=
  .init b h r :: (m.map .absorb ++ [.final])

section
variable {b : BitVec 8} {h : BitVec 10} {r : Word}

/-- `hash` expands to a computation and the reads of its digest (R96). -/
theorem expand_hash (legal : Legal r.toNat b.toNat h.toNat) (m : List Byte) :
    expand (.hash r.toNat b.toNat h.toNat (m.map BitVec.toNat)) =
      List.map Instr.toAsm (computation b h r m ++ (digestIndices (h.toNat / 8)).map .rddigest) := by
  obtain ⟨_, _, _, _, _, hh, _⟩ := legal
  have reads : (List.range (h.toNat / 8)).map AsmLine.rddigest =
      List.map Instr.toAsm ((digestIndices (h.toNat / 8)).map Instr.rddigest) := by
    simp only [digestIndices, List.map_map]
    refine List.map_congr_left fun k hk => congrArg AsmLine.rddigest (Nat.mod_eq_of_lt ?_).symm
    have := List.mem_range.mp hk
    omega
  simp [expand, computation, reads, Instr.toAsm]

/-- A computation with legal parameters is accepted: it ends with ERR clear. -/
theorem accepts_computation (legal : Legal r.toNat b.toNat h.toNat) (m : List Byte) (s : State) :
    ∃ rs t, Accepts (computation b h r m) s rs t ∧ t.x = finalState r.toNat b.toNat h.toNat m ∧
      t.phase = .output ∧ t.cfgH = h := by
  obtain ⟨_, t, _, _, run, _, _, _, _, words, output, size, _, clear, _⟩ := blockComputesThePipeline b h r m s legal
  obtain ⟨u, init, rest⟩ := execAll_cons_cases run
  have ok : u.rspOk = true := by
    cases (exec_init_of_legal legal s).symm.trans init
    rfl
  obtain ⟨_, _, a⟩ := accepts_of_err_clear rest (by simp) clear
  exact ⟨_, t, .cons init ok a, words, output, size⟩

/-- Reads of the digest below its length are accepted and answer its bytes; none changes what the next one reads. -/
theorem accepts_rddigests {ks : List (BitVec 7)} {s : State} (hp : s.phase = .output)
    (hk : ∀ k ∈ ks, k.toNat < s.cfgH.toNat / 8) :
    ∃ t, Accepts (ks.map .rddigest) s (ks.map fun k => ⟨true, (digestByte s.x k).setWidth 32⟩) t ∧
      t.phase = .output := by
  induction ks generalizing s with
  | nil => exact ⟨s, .nil s, hp⟩
  | cons k ks ih =>
    obtain ⟨first, rest⟩ := List.forall_mem_cons.mp hk
    obtain ⟨t, a, output⟩ := ih (s := respond true ((digestByte s.x k).setWidth 32) s) hp rest
    exact ⟨t, .cons (exec_rddigest_of_output hp first) rfl a, output⟩

end

/-- Settles O46: the computation is accepted and leaves the final state, whose digest the reads then answer. -/
theorem hashReturnsTheDigest : Obligations.HashReturnsTheDigest := by
  intro r b h m s legal
  have ⟨_, hr, _, hb, _, hh, _⟩ := legal
  obtain ⟨r, rfl⟩ : ∃ r' : Word, r'.toNat = r := ⟨.ofNatLT r hr, rfl⟩
  obtain ⟨b, rfl⟩ : ∃ b' : BitVec 8, b'.toNat = b := ⟨.ofNatLT b (by omega), rfl⟩
  obtain ⟨h, rfl⟩ : ∃ h' : BitVec 10, h'.toNat = h := ⟨.ofNatLT h (by omega), rfl⟩
  obtain ⟨rs, u, computed, words, output, size⟩ := accepts_computation legal m s
  obtain ⟨t, read, output⟩ := accepts_rddigests output (ks := digestIndices (h.toNat / 8)) fun k hk =>
    size ▸ toNat_lt_of_mem_digestIndices hk
  have all := computed.append read
  have before : rs.length = m.length + 2 := by simp [computed.length_eq, computation]
  refine ⟨_, _, t, assemble_of_expand (expand_hash legal m), all.hostRun_eq, ?_, all.all_ok, ?_, output⟩
  · simp [before, digestIndices]
  · have low (d : Byte) : (d.setWidth 32).setWidth 8 = d :=
      (BitVec.setWidth_setWidth_of_le d (by decide)).trans (BitVec.setWidth_eq d)
    rw [List.drop_left' before, List.map_map, words, hash_eq_digestBytes legal]
    exact List.map_congr_left fun k _ => low _

end Sys2Proof.Machine
end

section
/-! NOP, RDSTATE, WRSTATE and RDCSR, and their words (spec/45_access.md R230 to R233). -/

namespace Sys2Proof

/-! ## The words of the three commands with one field (R83, R86) -/

/-- `decode_of_field` for the word written as a number. -/
theorem decode_ofNat_field {n op : Nat} (mask : Nat) (d : BitVec n) (o : Word) {instr : BitVec n → Instr}
    (reads : ∀ w : Word, (opcode w).toNat = op → dispatchOp ⟨w, o⟩ = some (instr (w.extractLsb' 4 n)))
    (hn : n ≤ 28 := by decide) (ho : op < 9 := by decide)
    (hm : resMask (BitVec.ofNat 4 op) = BitVec.ofNat 32 mask <<< (4 + n) := by decide) :
    decode ⟨BitVec.ofNat 32 (d.toNat * 2 ^ 4 + op), o⟩ = .ok (instr d) := by
  rw [ofNat_field hn d (Nat.lt_trans ho (by decide))]
  exact decode_of_field mask d o reads hn ho hm

theorem decode_rdstate (i : BitVec 5) (o : Word) :
    decode ⟨BitVec.ofNat 32 (i.toNat * 2 ^ 4 + 0x5), o⟩ = .ok (.rdstate i) :=
  decode_ofNat_field 0x7FFFFF i o fun w => dispatchOp_of (c := ⟨w, o⟩)

theorem decode_wrstate (i : BitVec 5) (v : Word) :
    decode ⟨BitVec.ofNat 32 (i.toNat * 2 ^ 4 + 0x6), v⟩ = .ok (.wrstate i v) :=
  decode_ofNat_field 0x7FFFFF i v (op := 6) (instr := (.wrstate · v)) fun w => dispatchOp_of (c := ⟨w, v⟩)

theorem decode_rdcsr (c : BitVec 8) (o : Word) :
    decode ⟨BitVec.ofNat 32 (c.toNat * 2 ^ 4 + 0x8), o⟩ = .ok (.rdcsr c) :=
  decode_ofNat_field 0xFFFFF c o fun w => dispatchOp_of (c := ⟨w, o⟩)

namespace Machine

/-! ## What each command does -/

theorem exec_rdstate_of_ne_uninit {s : State} (hp : s.phase ≠ .uninit) (i : BitVec 5) :
    exec (.rdstate i) s = .next (respond true (readWord s.x i) s) :=
  if_neg hp

theorem exec_wrstate_of_open {s : State} (hopen : s.phase.isOpen = true) (i : BitVec 5) (v : Word) :
    exec (.wrstate i v) s = .next (accept { s with x := writeWord s.x i v }) :=
  if_pos hopen

/-- WRSTATE i writes word i and no other. -/
theorem writeWord_eq_ofFn (x : Words) (i : BitVec 5) (v : Word) :
    writeWord x i v = Vector.ofFn fun j => if j.val = i.toNat then v else x[j] :=
  Vector.ext fun j hj => by rw [writeWord_getElem, Vector.getElem_ofFn]; rfl

theorem exec_rdcsr_of_some {s : State} {c : BitVec 8} {v : Word} (h : readCsr s c = some v) :
    exec (.rdcsr c) s = .next (respond true v s) := by
  simp only [exec, execRdcsr, h]

theorem exec_rdcsr_of_none {s : State} {c : BitVec 8} (h : readCsr s c = none) :
    exec (.rdcsr c) s = .next (reject .index s) := by
  simp only [exec, execRdcsr, h]

/-- The numbers from 4 up name no control register (R42). -/
theorem readCsr_of_ge {c : BitVec 8} (hc : 4 ≤ c.toNat) (s : State) : readCsr s c = none := by
  unfold readCsr
  split
  case h_5 => rfl
  all_goals omega

/-! ## The obligations -/

/-- Settles O24: RDSTATE's check of PHASE has two answers, and its word decodes to it. -/
theorem rdstateCompletes : Obligations.RdstateCompletes :=
  ⟨fun i _ hp => exec_rdstate_of_ne_uninit hp i, fun _ _ hp => if_pos hp,
    fun i o s => issue_of_decode (decode_rdstate i o) s, rejectsReserved_of_mask rfl⟩

/-- Settles O25: WRSTATE's check of PHASE has two answers, the words written are pinned one by one, and its word decodes
to it. -/
theorem wrstateCompletes : Obligations.WrstateCompletes := by
  refine ⟨fun i v s hopen => ?_, fun i v s hclosed => exec_wrstate_closed ((isOpen_false_iff _).mpr hclosed) i v,
    fun i v s => issue_of_decode (decode_wrstate i v) s, rejectsReserved_of_mask rfl⟩
  rw [← writeWord_eq_ofFn]
  exact exec_wrstate_of_open ((isOpen_iff _).mpr hopen) i v

/-- Settles O27: a number below 4 names its register, zero-extended, one from 4 up names none, and RDCSR's word decodes to
it. -/
theorem rdcsrCompletes : Obligations.RdcsrCompletes := by
  refine ⟨fun c s => ⟨?_, ?_, ?_, ?_, fun hc => exec_rdcsr_of_none (readCsr_of_ge hc s)⟩,
    fun c o s => issue_of_decode (decode_rdcsr c o) s, rejectsReserved_of_mask rfl⟩
  · rintro rfl
    exact exec_rdcsr_of_some rfl
  · rintro rfl
    exact exec_rdcsr_of_some rfl
  · rintro rfl
    rw [BitVec.ofNat_toNat]
    exact exec_rdcsr_of_some rfl
  · rintro rfl
    rw [BitVec.ofNat_toNat]
    exact exec_rdcsr_of_some rfl

/-- Settles O19: NOP is `accept` and has no check, and its word decodes to it whatever the operand. -/
theorem nopCompletes : Obligations.NopCompletes :=
  ⟨fun _ => rfl, fun _ => issue_of_decode (decode_mk rfl (by decide)), rejectsReserved_of_mask rfl⟩

end Machine
end Sys2Proof
end

section
/-! Rejections: which check reports, what it writes, and how long ERR keeps its code (spec/60_exceptions.md R263 to
R268). -/

namespace Sys2Proof.Machine

/-! ## The decoder's rejections (R263) -/

/-- An opcode past the table of RESMASK is no command's (R87). -/
theorem dispatchOp_eq_none_of_ge {c : Command} (h : 9 ≤ c.cmd.toNat % 16) : dispatchOp c = none := by
  have row := maskTable_getElem? c
  rw [List.getElem?_eq_none (show maskTable.length ≤ _ from h)] at row
  exact Option.map_eq_none_iff.mp row.symm

theorem issue_illegal {c : Command} (h : 9 ≤ c.cmd.toNat % 16) (s : State) : issue c s = .next (reject .illegal s) :=
  issue_of_decode_error (decode_illegal (dispatchOp_eq_none_of_ge h)) s

theorem div_ne_zero_of_slice {w : Word} {lo len : Nat} (h : w.extractLsb' lo len ≠ 0) : w.toNat / 2 ^ lo ≠ 0 := by
  refine fun none => h (BitVec.eq_of_toNat_eq ?_)
  rw [toNat_slice, none, Nat.zero_mod]
  rfl

/-- `rejectsReserved_of_mask` for the reserved bits as a slice of the word. -/
theorem issue_reserved_of_slice {op lo len : Nat} (row : maskTable[op]? = some (BitVec.allOnes 32 <<< lo)) {c : Command}
    (hop : c.cmd.toNat % 16 = op) (h : c.cmd.extractLsb' lo len ≠ 0) (s : State) :
    issue c s = .next (reject .reserved s) :=
  rejectsReserved_of_mask row c s hop (div_ne_zero_of_slice h)

/-- Settles O31: an opcode of 9 or more has no row in the table of RESMASK, and a row is a slice of reserved bits. -/
theorem decodeRejections : Obligations.DecodeRejections := by
  refine fun c s => ⟨fun h => issue_illegal h s, ?_, fun hop h => issue_reserved_of_slice rfl hop h s, ?_, ?_,
    fun hop h => issue_reserved_of_slice rfl hop h s⟩
  · rintro (hop | hop | hop) h <;> exact issue_reserved_of_slice rfl hop h s
  · rintro (hop | hop) h <;> exact issue_reserved_of_slice rfl hop h s
  · rintro (hop | hop) h <;> exact issue_reserved_of_slice rfl hop h s

/-! ## The table of phases (R264) -/

theorem permitted_perm (n : Word) (p : Phase) : permitted (.perm n) p = p.isOpen := by cases p <;> rfl

theorem permitted_wrstate (j : BitVec 5) (v : Word) (p : Phase) : permitted (.wrstate j v) p = p.isOpen := by
  cases p <;> rfl

theorem permitted_rdstate_false_iff (j : BitVec 5) (p : Phase) : permitted (.rdstate j) p = false ↔ p = .uninit := by
  cases p <;> simp [permitted]

theorem permitted_rddigest_false_iff (k : BitVec 7) (p : Phase) : permitted (.rddigest k) p = false ↔ p ≠ .output :=
  decide_eq_false_iff_not

theorem exec_of_not_permitted {i : Instr} {s : State} (h : permitted i s.phase = false) :
    exec i s = .next (reject .phase s) := by
  cases i with
  | nop | init _ _ _ | rdcsr _ => cases h
  | absorb d => exact exec_absorb_closed ((permitted_absorb d _).symm.trans h) d
  | final => exact exec_final_closed ((permitted_final _).symm.trans h)
  | perm n => exact exec_perm_closed ((permitted_perm n _).symm.trans h) n
  | rdstate j => exact if_pos ((permitted_rdstate_false_iff j _).mp h)
  | wrstate j v => exact exec_wrstate_closed ((permitted_wrstate j v _).symm.trans h) j v
  | rddigest k => exact if_neg ((permitted_rddigest_false_iff k _).mp h)

/-- A command that was rejected was not permitted, or the reason is another than PHASE. -/
theorem exec_rejection_cases {i : Instr} {s t : State} (h : exec i s = .next t) (rejected : t.rspOk = false) :
    (permitted i s.phase = false ∧ t = reject .phase s) ∨ ∃ code, code ≠ .phase ∧ t = reject code s := by
  cases i with
  | nop => cases h; cases rejected
  | init b g r =>
    rcases execInit_cases h with ⟨_, rfl⟩ | ⟨code, hcode, rfl⟩
    · cases rejected
    · refine .inr ⟨code, ?_, rfl⟩
      rintro rfl
      cases configError_isConfig hcode
  | absorb d =>
    rcases execAbsorb_cases h with ⟨_, _, rfl⟩ | ⟨closed, rfl⟩
    · cases rejected
    · exact .inl ⟨(permitted_absorb d _).trans closed, rfl⟩
  | final =>
    rcases execFinal_cases h with ⟨_, _, rfl⟩ | ⟨closed, rfl⟩
    · cases rejected
    · exact .inl ⟨(permitted_final _).trans closed, rfl⟩
  | perm n =>
    rcases execPerm_cases h with ⟨_, rfl⟩ | ⟨closed, rfl⟩
    · cases rejected
    · exact .inl ⟨(permitted_perm n _).trans closed, rfl⟩
  | rdstate j =>
    rcases execRdstate_cases h with ⟨_, rfl⟩ | ⟨uninit, rfl⟩
    · cases rejected
    · exact .inl ⟨(permitted_rdstate_false_iff j _).mpr uninit, rfl⟩
  | wrstate j v =>
    rcases execWrstate_cases h with ⟨_, rfl⟩ | ⟨closed, rfl⟩
    · cases rejected
    · exact .inl ⟨(permitted_wrstate j v _).trans closed, rfl⟩
  | rddigest k =>
    rcases execRddigest_cases h with ⟨_, _, rfl⟩ | ⟨_, _, rfl⟩ | ⟨other, rfl⟩
    · cases rejected
    · exact .inr ⟨.index, nofun, rfl⟩
    · exact .inl ⟨(permitted_rddigest_false_iff k _).mpr other, rfl⟩
  | rdcsr c =>
    rcases execRdcsr_cases h with ⟨_, _, rfl⟩ | ⟨_, rfl⟩
    · cases rejected
    · exact .inr ⟨.index, nofun, rfl⟩

/-- Settles O32: the table agrees with each command's own check of PHASE, and no other check reports PHASE. -/
theorem phaseRejections : Obligations.PhaseRejections := by
  refine fun i s => ⟨exec_of_not_permitted, fun allowed t h rejected err => ?_⟩
  rcases exec_rejection_cases h rejected with ⟨forbidden, _⟩ | ⟨code, other, rfl⟩
  · cases allowed.symm.trans forbidden
  · exact other (code_injective code .phase err)

/-! ## The indices (R265) -/

theorem exec_rddigest_index {k : BitVec 7} {s : State} (hp : s.phase = .output) (hk : s.cfgH.toNat / 8 ≤ k.toNat) :
    exec (.rddigest k) s = .next (reject .index s) :=
  (if_pos hp).trans (if_neg (Nat.not_lt.mpr hk))

theorem exec_rdcsr_index {c : BitVec 8} (hc : 4 ≤ c.toNat) (s : State) : exec (.rdcsr c) s = .next (reject .index s) :=
  exec_rdcsr_of_none (readCsr_of_ge hc s)

theorem reject_phase_err_ne_index (s : State) : (reject .phase s).err ≠ 7 := by
  rw [reject_err]
  decide

/-- Settles O33: the only rejection of RDSTATE and of WRSTATE is PHASE. -/
theorem indexRejections : Obligations.IndexRejections := by
  refine ⟨fun _ _ => exec_rddigest_index, fun _ s hc => exec_rdcsr_index hc s, fun i s t h rejected => ?_,
    fun i v s t h rejected => ?_⟩
  · rcases execRdstate_cases h with ⟨_, rfl⟩ | ⟨_, rfl⟩
    · cases rejected
    · exact reject_phase_err_ne_index s
  · rcases execWrstate_cases h with ⟨_, rfl⟩ | ⟨_, rfl⟩
    · cases rejected
    · exact reject_phase_err_ne_index s

/-! ## The order of the checks (R267) -/

theorem exec_init_eq_checks (b : BitVec 8) (h : BitVec 10) (r : Word) (s : State) :
    exec (.init b h r) s =
      if r.toNat = 0 then .next (reject .badR s)
      else if b.toNat = 0 ∨ 128 < b.toNat then .next (reject .badB s)
      else if h.toNat < 8 ∨ 512 < h.toNat ∨ h.toNat % 8 ≠ 0 then .next (reject .badH s)
      else exec (.init b h r) s := by
  split
  · exact execInit_rejects (configError_badR b h (by omega)) s
  · split
    · exact execInit_rejects (configError_badB h (by omega) (by omega)) s
    · split
      · exact execInit_rejects (configError_badH (by omega) (by omega) (by omega) ‹_›) s
      · rfl

/-- Settles O34: each check in its turn, ILLEGAL and RESERVED by the decoder, the others by the instruction it reads. -/
theorem rejectionPriority : Obligations.RejectionPriority := by
  refine fun c s => ⟨fun h => issue_illegal h s, fun _ h => issue_of_decode_error h s,
    fun b h r hi => (issue_of_decode hi s).trans (exec_init_eq_checks b h r s), fun i hi other => ?_⟩
  rw [issue_of_decode hi]
  split
  case isTrue forbidden => exact exec_of_not_permitted forbidden
  case isFalse allowed =>
    cases i with
    | init b h r => exact absurd rfl (other b h r)
    | rddigest k =>
      have output : s.phase = .output := not_not.mp (mt (permitted_rddigest_false_iff k _).mpr allowed)
      dsimp only
      split
      · exact exec_rddigest_index output ‹_›
      · rfl
    | rdcsr n =>
      dsimp only
      split
      · exact exec_rdcsr_index ‹_› s
      · rfl
    | nop | absorb _ | final | perm _ | rdstate _ | wrstate _ _ => rfl

/-! ## What a rejection writes, and what keeps it (R266, R268) -/

/-- The configuration errors by name (R266). -/
theorem isConfig_iff_name (code : RejectCode) : code.isConfig = true ↔ code = .badR ∨ code = .badB ∨ code = .badH := by
  cases code <;> decide

/-- Settles O30: the names in R266 are the configuration errors. -/
theorem rejectionEffect : Obligations.RejectionEffect := by
  intro code s
  rw [← if_congr (isConfig_iff_name code) rfl rfl]
  rfl

/-- An accepted command leaves ERR, unless it is INIT. -/
theorem exec_accepted_err {i : Instr} {s t : State} (h : exec i s = .next t) (ok : t.rspOk = true)
    (other : ∀ b h r, i ≠ .init b h r) : t.err = s.err := by
  rcases exec_ends h with ⟨_, _, _, _, err⟩ | ⟨_, rfl, _⟩
  · cases i with
    | init b g r => exact absurd rfl (other b g r)
    | nop | absorb _ | final | perm _ | rdstate _ | wrstate _ _ | rddigest _ | rdcsr _ => exact err
  · cases ok

theorem exec_init_accepted_err {b : BitVec 8} {g : BitVec 10} {r : Word} {s t : State}
    (h : exec (.init b g r) s = .next t) (ok : t.rspOk = true) : t.err = 0 := by
  rcases exec_ends h with ⟨_, _, _, _, err⟩ | ⟨_, rfl, _⟩
  · exact err
  · cases ok

/-- Settles O35: how an accepted command ends gives ERR, and a rejected one is `reject` and nothing else. -/
theorem errPersists : Obligations.ErrPersists := by
  refine ⟨fun _ _ _ => exec_accepted_err, fun _ _ _ _ _ => exec_init_accepted_err, applyReset_err,
    fun c s t h rejected => ?_⟩
  obtain ⟨code, rfl⟩ := eq_reject_of_issue h rejected
  refine ⟨code, rfl, rfl, rfl, rfl, rfl, ⟨rfl, rfl, rfl, rfl, rfl⟩, fun config => ?_, fun other => ?_⟩
  · exact reject_phase_of_isConfig ((isConfig_iff_name code).mpr config) s
  · exact if_neg (mt (isConfig_iff_name code).mp other)

end Sys2Proof.Machine
end

section
/-! A step by its input, and resets (spec/00_scope.md R10, spec/70_reset_and_hazards.md R290 to R292). -/

namespace Sys2Proof.Machine

/-! ## A step by its input -/

theorem step_of_empty {s : State} (h : s.stream = []) : step s = .next (idle s) := by
  simp only [step, h]

theorem step_of_input {s : State} {input : HostInput} {rest : List HostInput} (h : s.stream = input :: rest) :
    step s = applyInput input { s with stream := rest } := by
  simp only [step, h]

/-- Settles O15: a step does what its input says, and a command is carried out as the instruction it decodes to. -/
theorem stepRunsTheDecodedInstruction : Obligations.StepRunsTheDecodedInstruction :=
  ⟨fun _ _ _ _ hs hi => (step_of_input hs).trans (issue_of_decode hi _),
    fun _ _ _ _ hs he => (step_of_input hs).trans (issue_of_decode_error he _),
    fun _ _ hs => step_of_input hs, fun _ _ _ hs => step_of_input hs, fun _ hs => step_of_empty hs,
    fun s nbits w => step_of_input (s := s.withFetchWord nbits w) rfl⟩

/-! ## Reset -/

/-- Settles O51: `applyReset` sets these registers, and with no input the block stays as it is. -/
theorem resetSets : Obligations.ResetSets := by
  refine ⟨fun s rest hs => ⟨_, step_of_input hs, ?_⟩, ?_, step_of_empty rfl⟩
  · exact ⟨applyReset_phase _, applyReset_cfgR _, applyReset_cfgB _, applyReset_cfgH _, applyReset_bcount _,
      applyReset_err _, status_uninit (applyReset_bcount _) (applyReset_err _) (applyReset_phase _), rfl,
      applyReset_rspValid _, applyReset_stream _⟩
  · exact ⟨rfl, rfl, rfl, rfl, rfl, rfl, status_uninit rfl rfl rfl, rfl, rfl⟩

/-- Settles O52: both inputs are done by the same `applyReset`. -/
theorem resetAbortsACommand : Obligations.ResetAbortsACommand := by
  intro s c rest hs
  have aborted : step s = .next (applyReset { s with stream := rest }) := step_of_input hs
  refine ⟨aborted, fun t h => ?_⟩
  obtain rfl := Host.Outcome.next.inj (aborted.symm.trans h)
  exact applyReset_rspValid _

/-- The registers R290 sets, at the values it gives them. -/
structure AfterReset (s : State) : Prop where
  phase : s.phase = .uninit
  cfgR : s.cfgR = 0
  cfgB : s.cfgB = 0
  cfgH : s.cfgH = 0
  bcount : s.bcount = 0
  err : s.err = 0

theorem afterReset_applyReset (s : State) : AfterReset (applyReset s) :=
  ⟨applyReset_phase s, applyReset_cfgR s, applyReset_cfgB s, applyReset_cfgH s, applyReset_bcount s, applyReset_err s⟩

theorem afterReset_reset : AfterReset State.reset := ⟨rfl, rfl, rfl, rfl, rfl, rfl⟩

/-- After reset each of the four control registers reads 0. -/
theorem AfterReset.readCsr_eq {s : State} (a : AfterReset s) {c : BitVec 8} (hc : c.toNat < 4) :
    readCsr s c = some 0 := by
  obtain rfl | rfl | rfl | rfl : c = 0 ∨ c = 1 ∨ c = 2 ∨ c = 3 := by bv_omega
  · exact congrArg some (status_uninit a.bcount a.err a.phase)
  · exact congrArg some a.cfgR
  · exact congrArg (fun b : BitVec 8 => some (b.setWidth 32)) a.cfgB
  · exact congrArg (fun h : BitVec 10 => some (h.setWidth 32)) a.cfgH

/-- The commands that UNINIT permits (R264). -/
theorem permitted_uninit {i : Instr} (h : permitted i .uninit = true) :
    i = .nop ∨ (∃ b g r, i = .init b g r) ∨ ∃ c, i = .rdcsr c := by
  cases i with
  | nop => exact .inl rfl
  | init b g r => exact .inr (.inl ⟨b, g, r, rfl⟩)
  | rdcsr c => exact .inr (.inr ⟨c, rfl⟩)
  | absorb _ | final | perm _ | rdstate _ | wrstate _ _ | rddigest _ => cases h

/-- Settles O53: UNINIT permits NOP, INIT and RDCSR alone, and what RDCSR reads is what reset set. -/
theorem afterResetOnlyInitNopRdcsr : Obligations.AfterResetOnlyInitNopRdcsr := by
  intro s u hs
  have a : AfterReset s := by
    rcases hs with rfl | rfl
    · exact afterReset_applyReset u
    · exact afterReset_reset
  refine ⟨⟨_, rfl, rfl⟩, fun b h r legal => ⟨_, exec_init_of_legal legal s, rfl⟩,
    fun c hc => ⟨_, exec_rdcsr_of_some (a.readCsr_eq hc), rfl, rfl⟩, fun i notNop notInit notRdcsr => ?_⟩
  refine exec_of_not_permitted (Bool.eq_false_iff.mpr fun allowed => ?_)
  rw [a.phase] at allowed
  rcases permitted_uninit allowed with rfl | ⟨b, g, r, rfl⟩ | ⟨c, rfl⟩
  · exact notNop rfl
  · exact notInit b g r rfl
  · exact notRdcsr c rfl

end Sys2Proof.Machine
end

section
/-! That X in UNINIT, BUF from BCOUNT on and ports that signal nothing reach no response (spec/10_state.md R32, R38,
spec/70_reset_and_hazards.md R290). -/

namespace Sys2Proof.Machine

theorem ne_uninit_of_isOpen {p : Phase} (h : p.isOpen = true) : p ≠ .uninit := by
  rintro rfl
  cases h

/-! ## Blocks that agree in the bytes absorbed -/

/-- Of BUF, AbsorbBlock looks at the first `b` bytes alone. -/
theorem blockWord_congr {b : Nat} {buf buf' : Vector Byte 128} (h : ∀ k : Fin 128, k.val < b → buf[k] = buf'[k])
    (j : Fin 32) : blockWord b buf j = blockWord b buf' j := by
  refine word_ext fun t => ?_
  rw [blockWord_byte, blockWord_byte]
  split
  · exact h ⟨4 * j.val + t.val, by omega⟩ ‹_›
  · rfl

theorem xorBlock_congr {b : Nat} {buf buf' : Vector Byte 128} (h : ∀ k : Fin 128, k.val < b → buf[k] = buf'[k])
    (x : Words) : xorBlock b buf x = xorBlock b buf' x := by
  refine Vector.ext fun j hj => ?_
  rw [xorBlock_getElem, xorBlock_getElem, blockWord_congr h]

/-- The padding keeps the bytes below `n` and writes every byte of the block from there on. -/
theorem padBytes_congr {n b : Nat} {buf buf' : Vector Byte 128} (h : ∀ k : Fin 128, k.val < n → buf[k] = buf'[k])
    (k : Fin 128) (hk : k.val < n ∨ k.val < b) : (padBytes n b buf)[k] = (padBytes n b buf')[k] := by
  simp only [Fin.getElem_fin, padBytes_getElem]
  rcases Nat.lt_trichotomy k.val n with before | terminator | after
  · rw [if_neg (by omega), if_neg (by omega), if_neg (by omega), if_neg (by omega)]
    exact h k before
  · rw [if_pos terminator, if_pos terminator]
  · rw [if_neg (by omega), if_pos (by omega), if_neg (by omega), if_pos (by omega)]

/-! ## The shared operations on states that look the same -/

section
variable {s t : State}

theorem SameToHost.status_eq (h : SameToHost s t) : s.status = t.status := by
  rw [State.status, State.status, h.bcount, h.err, h.phase]

theorem SameToHost.respond (h : SameToHost s t) (ok : Bool) (v : Word) :
    SameToHost (respond ok v s) (respond ok v t) :=
  { h with rspValid := rfl, response := fun _ => rfl }

theorem SameToHost.accept (h : SameToHost s t) : SameToHost (accept s) (accept t) := by
  rw [Machine.accept, Machine.accept, h.status_eq]
  exact h.respond true _

theorem SameToHost.markRejected (h : SameToHost s t) (code : RejectCode) :
    SameToHost (markRejected code s) (markRejected code t) := by
  cases config : code.isConfig with
  | true =>
    have uninit (u : State) : (Machine.markRejected code u).phase = .uninit := if_pos config
    exact { h with
      err := rfl, phase := (uninit s).trans (uninit t).symm, words := fun ne => absurd (uninit s) ne,
      bytes := fun hopen => by rw [uninit] at hopen; cases hopen }
  | false =>
    have same (u : State) : (Machine.markRejected code u).phase = u.phase := if_neg (by simp [config])
    exact { h with
      err := rfl, phase := (same s).trans (h.phase.trans (same t).symm), words := fun ne => h.words (same s ▸ ne),
      bytes := fun hopen => h.bytes (same s ▸ hopen) }

theorem SameToHost.reject (h : SameToHost s t) (code : RejectCode) :
    SameToHost (reject code s) (reject code t) := by
  have marked := h.markRejected code
  rw [Machine.reject, Machine.reject, marked.status_eq]
  exact marked.respond false _

theorem SameToHost.idle (h : SameToHost s t) : SameToHost (idle s) (idle t) :=
  { h with rspValid := rfl, response := nofun }

theorem SameToHost.withStream (h : SameToHost s t) (l : List HostInput) :
    SameToHost { s with stream := l } { t with stream := l } :=
  { h with stream := rfl }

theorem SameToHost.withWords (h : SameToHost s t) {x x' : Words} (words : s.phase ≠ .uninit → x = x') :
    SameToHost { s with x := x } { t with x := x' } :=
  { h with words := words }

theorem SameToHost.withBuf (h : SameToHost s t) {buf buf' : Vector Byte 128}
    (bytes : s.phase.isOpen = true → ∀ j : Fin 128, j.val < s.bcount.toNat → buf[j] = buf'[j]) :
    SameToHost { s with buf := buf } { t with buf := buf' } :=
  { h with bytes := bytes }

theorem SameToHost.toOutput (h : SameToHost s t) {x x' : Words} (words : x = x') :
    SameToHost { s with x := x, phase := .output } { t with x := x', phase := .output } :=
  { h with phase := rfl, words := fun _ => words, bytes := nofun }

/-- What a reset leaves unspecified is what cannot be told apart after it. -/
theorem AfterReset.sameToHost (a : AfterReset s) (b : AfterReset t) (stream : s.stream = t.stream)
    (quiet : s.rspValid = false) (quiet' : t.rspValid = false) : SameToHost s t where
  stream := stream
  phase := a.phase.trans b.phase.symm
  cfgR := a.cfgR.trans b.cfgR.symm
  cfgB := a.cfgB.trans b.cfgB.symm
  cfgH := a.cfgH.trans b.cfgH.symm
  bcount := a.bcount.trans b.bcount.symm
  err := a.err.trans b.err.symm
  rspValid := quiet.trans quiet'.symm
  response valid := by cases quiet.symm.trans valid
  words ne := absurd a.phase ne
  bytes hopen := absurd a.phase (ne_uninit_of_isOpen hopen)

theorem SameToHost.applyReset (h : SameToHost s t) : SameToHost (applyReset s) (applyReset t) :=
  (afterReset_applyReset s).sameToHost (afterReset_applyReset t)
    ((applyReset_stream s).trans (h.stream.trans (applyReset_stream t).symm)) (applyReset_rspValid s)
    (applyReset_rspValid t)

/-! ## Each command on states that look the same -/

theorem sameOutcome_ite {p q : Prop} [Decidable p] [Decidable q] {a a' b b' : Host.Outcome State Fault Refusal}
    (hpq : p ↔ q) (pass : p → SameOutcome a a') (fail : ¬p → SameOutcome b b') :
    SameOutcome (if p then a else b) (if q then a' else b') := by
  by_cases hp : p
  · rw [if_pos hp, if_pos (hpq.mp hp)]
    exact pass hp
  · rw [if_neg hp, if_neg (mt hpq.mpr hp)]
    exact fail hp

/-- A command that needs an open block goes on in both states or is rejected in both. -/
theorem SameToHost.ite_isOpen (h : SameToHost s t) {a a' : Host.Outcome State Fault Refusal}
    (pass : s.phase.isOpen = true → SameOutcome a a') :
    SameOutcome (if s.phase.isOpen then a else .next (Machine.reject .phase s))
      (if t.phase.isOpen then a' else .next (Machine.reject .phase t)) :=
  sameOutcome_ite (by rw [h.phase]) pass fun _ => h.reject .phase

theorem SameToHost.execInit (h : SameToHost s t) (b : BitVec 8) (g : BitVec 10) (r : Word) :
    SameOutcome (execInit b g r s) (execInit b g r t) := by
  cases check : configError r b g with
  | some code =>
    rw [execInit_rejects check, execInit_rejects check]
    exact h.reject code
  | none =>
    rw [execInit_accepts check, execInit_accepts check]
    exact SameToHost.accept { h with
      cfgR := rfl, cfgB := rfl, cfgH := rfl, words := fun _ => rfl, bcount := rfl, phase := rfl, err := rfl,
      bytes := fun _ _ => nofun }

theorem SameToHost.pushByte (h : SameToHost s t) (hopen : s.phase.isOpen = true) (d : Byte)
    (hb : s.bcount.toNat < 128) (hb' : t.bcount.toNat < 128) :
    SameToHost (pushByte d s hb) (pushByte d t hb') := by
  refine { h with phase := rfl, bcount := congrArg (· + 1) h.bcount,
                  words := fun _ => h.words (ne_uninit_of_isOpen hopen), bytes := fun _ j hj => ?_ }
  rw [pushByte_bcount_toNat] at hj
  simp only [pushByte_buf, Fin.getElem_fin, Vector.getElem_set, ← h.bcount]
  split
  · rfl
  · exact h.bytes hopen j (by omega)

/-- The padded block is the same, and so are the bytes below BCOUNT. -/
theorem SameToHost.padBlock_buf (h : SameToHost s t) (hopen : s.phase.isOpen = true) (k : Fin 128)
    (hk : k.val < s.bcount.toNat ∨ k.val < s.cfgB.toNat) : (padBlock s).buf[k] = (padBlock t).buf[k] := by
  rw [Machine.padBlock_buf, Machine.padBlock_buf, ← h.bcount, ← h.cfgB]
  exact padBytes_congr (h.bytes hopen) k hk

theorem SameToHost.padBlock (h : SameToHost s t) : SameToHost (padBlock s) (padBlock t) :=
  h.withBuf fun hopen k hk => h.padBlock_buf hopen k (.inl hk)

/-- AbsorbBlock needs the whole block the same, not only its bytes below BCOUNT. -/
theorem SameToHost.absorbBlock (h : SameToHost s t)
    (block : ∀ k : Fin 128, k.val < s.cfgB.toNat → s.buf[k] = t.buf[k]) :
    SameToHost (absorbBlock s) (absorbBlock t) := by
  refine h.withWords fun ne => ?_
  rw [h.cfgR, ← h.cfgB, h.words ne, xorBlock_congr block]

theorem SameToHost.clearCount (h : SameToHost s t) : SameToHost (clearCount s) (clearCount t) :=
  { h with bcount := rfl, bytes := fun _ _ => nofun }

theorem SameToHost.finish (h : SameToHost s t) (ne : s.phase ≠ .uninit) : SameToHost (finish s) (finish t) := by
  refine h.toOutput ?_
  rw [h.cfgR, h.words ne]

/-- The block is full in both states or in neither, and when it is its bytes are the same. -/
theorem SameToHost.absorbIfFull (h : SameToHost s t) (hopen : s.phase.isOpen = true) :
    SameToHost (absorbIfFull s) (absorbIfFull t) := by
  have agree : t.bcount = t.cfgB ↔ s.bcount = s.cfgB := by rw [h.bcount, h.cfgB]
  rcases absorbIfFull_cases s with ⟨full, es⟩ | ⟨waits, es⟩
  · have et : Machine.absorbIfFull t = _ := if_pos (agree.mpr full)
    rw [es, et]
    exact (h.absorbBlock fun k hk => h.bytes hopen k (full ▸ hk)).clearCount
  · have et : Machine.absorbIfFull t = t := if_neg (mt agree.mp waits)
    rw [es, et]
    exact h

theorem SameToHost.execAbsorb (h : SameToHost s t) (d : Byte) : SameOutcome (execAbsorb d s) (execAbsorb d t) := by
  refine h.ite_isOpen fun hopen => ?_
  have room : s.bcount.toNat < 128 ↔ t.bcount.toNat < 128 := by rw [h.bcount]
  by_cases hb : s.bcount.toNat < 128
  · rw [dif_pos hb, dif_pos (room.mp hb)]
    exact ((h.pushByte hopen d hb (room.mp hb)).absorbIfFull rfl).accept
  · rw [dif_neg hb, dif_neg (mt room.mpr hb)]
    exact rfl

/-- FINAL absorbs the bytes below BCOUNT and its own padding. -/
theorem SameToHost.execFinal (h : SameToHost s t) : SameOutcome (execFinal s) (execFinal t) := by
  refine h.ite_isOpen fun hopen => sameOutcome_ite ?_ (fun _ => ?_) fun _ => rfl
  · rw [State.blockFits, State.blockFits, h.bcount, h.cfgB]
  · have block (k : Fin 128) (hk : k.val < (Machine.padBlock s).cfgB.toNat) :=
      h.padBlock_buf hopen k (.inr (padBlock_cfgB s ▸ hk))
    refine ((h.padBlock.absorbBlock block).clearCount.finish ?_).accept
    simpa using ne_uninit_of_isOpen hopen

theorem SameToHost.execPerm (h : SameToHost s t) (n : Word) : SameOutcome (execPerm n s) (execPerm n t) :=
  h.ite_isOpen fun _ => (h.withWords fun ne => congrArg (transform n.toNat) (h.words ne)).accept

theorem SameToHost.execWrstate (h : SameToHost s t) (i : BitVec 5) (v : Word) :
    SameOutcome (execWrstate i v s) (execWrstate i v t) :=
  h.ite_isOpen fun _ => (h.withWords fun ne => congrArg (writeWord · i v) (h.words ne)).accept

theorem SameToHost.execRdstate (h : SameToHost s t) (i : BitVec 5) :
    SameOutcome (execRdstate i s) (execRdstate i t) := by
  refine sameOutcome_ite (by rw [h.phase]) (fun _ => h.reject .phase) fun ne => ?_
  rw [h.words ne]
  exact h.respond true _

theorem SameToHost.execRddigest (h : SameToHost s t) (k : BitVec 7) :
    SameOutcome (execRddigest k s) (execRddigest k t) := by
  refine sameOutcome_ite (by rw [h.phase]) (fun output => ?_) fun _ => h.reject .phase
  refine sameOutcome_ite (by rw [h.cfgH]) (fun _ => ?_) fun _ => h.reject .index
  rw [h.words (by simp [output])]
  exact h.respond true _

theorem SameToHost.readCsr_eq (h : SameToHost s t) (c : BitVec 8) : readCsr s c = readCsr t c := by
  simp only [readCsr, h.status_eq, h.cfgR, h.cfgB, h.cfgH]

theorem SameToHost.execRdcsr (h : SameToHost s t) (c : BitVec 8) : SameOutcome (execRdcsr c s) (execRdcsr c t) := by
  unfold Machine.execRdcsr
  rw [h.readCsr_eq c]
  cases readCsr t c with
  | some v => exact h.respond true v
  | none => exact h.reject .index

theorem SameToHost.exec (h : SameToHost s t) (i : Instr) : SameOutcome (exec i s) (exec i t) := by
  cases i with
  | nop => exact h.accept
  | init b g r => exact h.execInit b g r
  | absorb d => exact h.execAbsorb d
  | final => exact h.execFinal
  | perm n => exact h.execPerm n
  | rdstate j => exact h.execRdstate j
  | wrstate j v => exact h.execWrstate j v
  | rddigest k => exact h.execRddigest k
  | rdcsr c => exact h.execRdcsr c

theorem SameToHost.issue (h : SameToHost s t) (c : Command) : SameOutcome (issue c s) (issue c t) := by
  cases hc : decode c with
  | error e =>
    rw [issue_of_decode_error hc, issue_of_decode_error hc]
    exact h.reject _
  | ok i =>
    rw [issue_of_decode hc, issue_of_decode hc]
    exact h.exec i

theorem SameToHost.applyInput (h : SameToHost s t) (input : HostInput) :
    SameOutcome (applyInput input s) (applyInput input t) := by
  cases input with
  | command c => exact h.issue c
  | reset => exact h.applyReset
  | resetDuring c => exact h.applyReset

end

/-- Settles O56: both states take the same input, and each command reads the unspecified values in neither. -/
theorem unspecifiedValuesAreUnobservable : Obligations.UnspecifiedValuesAreUnobservable := by
  intro s t h
  cases hs : s.stream with
  | nil =>
    rw [step_of_empty hs, step_of_empty (h.stream.symm.trans hs)]
    exact h.idle
  | cons input rest =>
    rw [step_of_input hs, step_of_input (h.stream.symm.trans hs)]
    exact (h.withStream rest).applyInput input

end Sys2Proof.Machine
end

section
/-! The decoder and the encoder are each other's inverse, and the assembler takes what fits (spec/30_encoding.md R83 to
R90, R94, R95). -/

namespace Sys2Proof

/-! ## Decoding an encoded instruction -/

/-- A command that does not use opd decodes to the same instruction whatever opd holds (R90). -/
theorem decode_ignores_opd {w o : Word} {i : Instr} (h : decode ⟨w, o⟩ = .ok i) (unused : i.usesOpd = false)
    (o' : Word) : decode ⟨w, o'⟩ = .ok i := by
  obtain ⟨fields, clear⟩ := decode_ok_iff.mp h
  refine decode_mk ?_ clear
  unfold dispatchOp at fields ⊢
  generalize (opcode w).toNat = n at fields ⊢
  split at fields <;> cases fields
  case h_2 | h_5 | h_7 => cases unused
  all_goals rfl

/-- Settles O10: opd is the encoded one where the command uses it, and of no account where it does not. -/
theorem decodeOfEncode : Obligations.DecodeOfEncode := by
  refine fun i opd => ⟨Machine.toAsm_wellFormed i, fun operand => ?_⟩
  cases used : i.usesOpd with
  | true =>
    rw [operand used]
    exact decode_encode i
  | false => exact decode_ignores_opd (decode_encode i) used opd

/-! ## Encoding a decoded instruction -/

/-- In a legal word the reserved bits, from `lo` up in the opcode's row of RESMASK, are 0. -/
theorem div_eq_zero_of_decode {c : Command} {i : Instr} (h : decode c = .ok i) {op lo : Nat}
    (row : maskTable[op]? = some (BitVec.allOnes 32 <<< lo)) (hop : (opcode c.cmd).toNat = op) :
    c.cmd.toNat / 2 ^ lo = 0 := by
  obtain ⟨fields, clear⟩ := decode_ok_iff.mp h
  rw [← hop, opcode_toNat, maskTable_getElem?, fields] at row
  have mask : resMask (opcode c.cmd) = BitVec.allOnes 32 <<< lo := Option.some.inj row
  rw [mask] at clear
  exact Machine.toNat_div_of_masked clear

/-- A word with nothing above its field of `n` bits is that field and its opcode. -/
theorem field_eq_self {w : Word} {n op : Nat} (hop : (opcode w).toNat = op) (clear : w.toNat / 2 ^ (4 + n) = 0)
    (hn : n ≤ 28) : (w.extractLsb' 4 n).setWidth 32 <<< 4 ||| BitVec.ofNat 32 op = w := by
  rw [opcode_toNat] at hop
  refine BitVec.eq_of_toNat_eq ?_
  rw [Nat.pow_add, ← Nat.div_div_eq_div_mul] at clear
  rw [toNat_field n hn _ op (by omega), toNat_slice,
    Nat.mod_eq_of_lt ((Nat.div_eq_zero_iff_lt (Nat.two_pow_pos n)).mp clear)]
  omega

/-- A word with nothing above its opcode is its opcode. -/
theorem ofNat_opcode_eq_self {w : Word} {op : Nat} (hop : (opcode w).toNat = op) (clear : w.toNat / 2 ^ 4 = 0) :
    BitVec.ofNat 32 op = w := by
  rw [opcode_toNat] at hop
  refine BitVec.eq_of_toNat_eq ?_
  rw [BitVec.toNat_ofNat]
  omega

/-- Format FI: B, H and the opcode of INIT make up a word with nothing above H. -/
theorem init_fields_eq_self {w : Word} (hop : (opcode w).toNat = 1) (clear : w.toNat / 2 ^ 22 = 0) :
    (fieldH w).setWidth 32 <<< 12 ||| (fieldB w).setWidth 32 <<< 4 ||| 0x1#32 = w := by
  rw [opcode_toNat] at hop
  refine BitVec.eq_of_toNat_eq ?_
  rw [toNat_init, fieldH, fieldB, toNat_slice, toNat_slice]
  omega

theorem encode_cmd_of_decode {c : Command} {i : Instr} (h : decode c = .ok i) : (encode i).cmd = c.cmd := by
  have ⟨fields, _⟩ := decode_ok_iff.mp h
  unfold dispatchOp at fields
  split at fields <;> cases fields
  case h_1 hop | h_4 hop | h_5 hop => exact ofNat_opcode_eq_self hop (div_eq_zero_of_decode h rfl hop)
  case h_2 hop => exact init_fields_eq_self hop (div_eq_zero_of_decode h rfl hop)
  case h_3 hop | h_6 hop | h_7 hop | h_8 hop | h_9 hop =>
    exact field_eq_self hop (div_eq_zero_of_decode h rfl hop) (by decide)

/-- An operand that is used is read as it is and written as it is. -/
theorem encode_opd_of_decode {c : Command} {i : Instr} (h : decode c = .ok i) (used : i.usesOpd = true) :
    (encode i).opd = c.opd := by
  have ⟨fields, _⟩ := decode_ok_iff.mp h
  unfold dispatchOp at fields
  split at fields <;> cases fields
  case h_2 | h_5 | h_7 => rfl
  all_goals cases used

/-- Settles O11: the fields of a legal word fill all of it but the reserved bits, which are 0. -/
theorem encodeOfDecode : Obligations.EncodeOfDecode := by
  refine fun c i h => ⟨encode_cmd_of_decode h, encode_opd_of_decode h, fun unused => ?_⟩
  cases i with
  | init _ _ _ | perm _ | wrstate _ _ => cases unused
  | nop | absorb _ | final | rdstate _ | rddigest _ | rdcsr _ => rfl

namespace Machine

/-! ## The assembler -/

theorem assembleLine_of_wellFormed {l : AsmLine} (h : l.wellFormed = true) : assembleLine l = some (lineWords l) :=
  if_pos h

theorem assembleLine_of_not_wellFormed {l : AsmLine} (h : l.wellFormed = false) : assembleLine l = none :=
  if_neg (by simp [h])

/-- A line whose numbers fit is the line of the instruction with those numbers as its fields. -/
theorem exists_toAsm_eq {l : AsmLine} (h : l.wellFormed = true) (notRaw : ∀ c o, l ≠ .word c o) :
    ∃ i : Instr, i.toAsm = l := by
  cases l with
  | nop => exact ⟨.nop, rfl⟩
  | init r b g =>
    obtain ⟨hr, hb, hg⟩ := of_decide_eq_true h
    exact ⟨.init (.ofNatLT b hb) (.ofNatLT g hg) (.ofNatLT r hr), rfl⟩
  | absorb d => exact ⟨.absorb (.ofNatLT d (of_decide_eq_true h)), rfl⟩
  | final => exact ⟨.final, rfl⟩
  | perm n => exact ⟨.perm (.ofNatLT n (of_decide_eq_true h)), rfl⟩
  | rdstate i => exact ⟨.rdstate (.ofNatLT i (of_decide_eq_true h)), rfl⟩
  | wrstate i v =>
    obtain ⟨hi, hv⟩ := of_decide_eq_true h
    exact ⟨.wrstate (.ofNatLT i hi) (.ofNatLT v hv), rfl⟩
  | rddigest k => exact ⟨.rddigest (.ofNatLT k (of_decide_eq_true h)), rfl⟩
  | rdcsr c => exact ⟨.rdcsr (.ofNatLT c (of_decide_eq_true h)), rfl⟩
  | word c o => exact absurd rfl (notRaw c o)

/-- Settles O14: the assembler looks at `wellFormed` alone, and a number below 2^32 is its word's value. -/
theorem assemblerEncodes : Obligations.AssemblerEncodes := by
  refine ⟨assembleLine_toAsm, fun _ h => ⟨_, assembleLine_of_wellFormed h⟩, fun _ => assembleLine_of_not_wellFormed,
    fun _ => exists_toAsm_eq, fun c o hc ho => ?_, fun c o big => ?_⟩
  · exact ⟨_, assembleLine_of_wellFormed (decide_eq_true ⟨hc, ho⟩), Nat.mod_eq_of_lt hc, Nat.mod_eq_of_lt ho⟩
  · exact assembleLine_of_not_wellFormed (decide_eq_false (by omega))

end Machine
end Sys2Proof
end

section
/-! The invariant (spec/10_state.md R35 to R39, spec/60_exceptions.md R261, R262, R266), and where the model stops
without it. -/

namespace Sys2Proof.Machine

theorem code_ne_zero (code : RejectCode) : code.code ≠ 0 := by
  have ⟨positive, _⟩ := code_range code
  exact fun zero => absurd (zero ▸ positive) (by decide)

/-- Settles O6: the values are the definitions', and the codes of a rejection run from 1 to 7. -/
theorem codesOfPhaseAndErr : Obligations.CodesOfPhaseAndErr := by
  refine ⟨⟨rfl, rfl, rfl, rfl⟩, ⟨rfl, rfl, rfl, rfl, rfl, rfl, rfl⟩, fun code => ⟨code_ne_zero code, ?_⟩⟩
  have ⟨_, small⟩ := code_range code
  exact Nat.lt_succ_of_le small

/-- A check of two answers, neither of which stops. -/
theorem exists_next_ite {p : Prop} [Decidable p] {a b : Host.Outcome State Fault Refusal}
    (pass : p → ∃ t, a = .next t) (fail : ¬p → ∃ t, b = .next t) : ∃ t, (if p then a else b) = .next t := by
  split
  · exact pass ‹_›
  · exact fail ‹_›

section
variable {s t : State}

/-- A command other than INIT, ABSORB and FINAL writes words of X and responds, or is rejected. -/
theorem exec_words_or_reject {i : Instr} (h : exec i s = .next t) (hi : ∀ b g r, i ≠ .init b g r)
    (ha : ∀ d, i ≠ .absorb d) (hf : i ≠ .final) :
    (∃ x v, t = respond true v { s with x := x }) ∨ ∃ code, t = reject code s := by
  cases i with
  | nop => exact .inl ⟨s.x, _, (Host.Outcome.next.inj h).symm⟩
  | init b g r => exact absurd rfl (hi b g r)
  | absorb d => exact absurd rfl (ha d)
  | final => exact absurd rfl hf
  | perm n => exact (execPerm_cases h).imp (fun ⟨_, e⟩ => ⟨_, _, e⟩) fun ⟨_, e⟩ => ⟨_, e⟩
  | rdstate j => exact (execRdstate_cases h).imp (fun ⟨_, e⟩ => ⟨s.x, _, e⟩) fun ⟨_, e⟩ => ⟨_, e⟩
  | wrstate j v => exact (execWrstate_cases h).imp (fun ⟨_, e⟩ => ⟨_, _, e⟩) fun ⟨_, e⟩ => ⟨_, e⟩
  | rddigest k =>
    rcases execRddigest_cases h with ⟨_, _, e⟩ | ⟨_, _, e⟩ | ⟨_, e⟩
    · exact .inl ⟨s.x, _, e⟩
    · exact .inr ⟨_, e⟩
    · exact .inr ⟨_, e⟩
  | rdcsr c => exact (execRdcsr_cases h).imp (fun ⟨v, _, e⟩ => ⟨s.x, v, e⟩) fun ⟨_, e⟩ => ⟨_, e⟩

/-! ## What the invariant says while a block is open -/

theorem cfgLegal_of_ne_uninit (params : s.ParamsOk) (ne : s.phase ≠ .uninit) : s.CfgLegal :=
  params.resolve_right fun ⟨uninit, _⟩ => ne uninit

section
variable (params : s.ParamsOk) (count : s.CountOk)
include params count

/-- BCOUNT is below CFG_B, which is at most 128, so BUF has a byte for the next one and FINAL's block fits. -/
theorem room_of_isOpen (hopen : s.phase.isOpen = true) : s.bcount.toNat < s.cfgB.toNat ∧ s.cfgB.toNat ≤ 128 := by
  obtain ⟨_, hb, hb', _⟩ := cfgLegal_of_ne_uninit params (ne_uninit_of_isOpen hopen)
  refine ⟨?_, hb'⟩
  rcases count with zero | ⟨_, below⟩
  · rw [zero]
    exact hb
  · exact below

/-! ## Where the model stops -/

theorem blockFits_of_isOpen (hopen : s.phase.isOpen = true) : s.blockFits = true :=
  have ⟨below, fits⟩ := room_of_isOpen params count hopen
  decide_eq_true ⟨Nat.lt_of_lt_of_le below fits, fits⟩

theorem exec_completes (i : Instr) : ∃ t, exec i s = .next t := by
  cases i with
  | nop => exact ⟨_, rfl⟩
  | init b g r =>
    cases check : configError r b g with
    | none => exact ⟨_, execInit_accepts check s⟩
    | some code => exact ⟨_, execInit_rejects check s⟩
  | absorb d =>
    refine exists_next_ite (fun hopen => ?_) fun _ => ⟨_, rfl⟩
    have ⟨below, fits⟩ := room_of_isOpen params count hopen
    exact ⟨_, dif_pos (Nat.lt_of_lt_of_le below fits)⟩
  | final =>
    exact exists_next_ite (fun hopen => ⟨_, if_pos (blockFits_of_isOpen params count hopen)⟩) fun _ => ⟨_, rfl⟩
  | perm n => exact exists_next_ite (fun _ => ⟨_, rfl⟩) fun _ => ⟨_, rfl⟩
  | rdstate j => exact exists_next_ite (fun _ => ⟨_, rfl⟩) fun _ => ⟨_, rfl⟩
  | wrstate j v => exact exists_next_ite (fun _ => ⟨_, rfl⟩) fun _ => ⟨_, rfl⟩
  | rddigest k =>
    exact exists_next_ite (fun _ => exists_next_ite (fun _ => ⟨_, rfl⟩) fun _ => ⟨_, rfl⟩) fun _ => ⟨_, rfl⟩
  | rdcsr c =>
    cases reads : readCsr s c with
    | none => exact ⟨_, exec_rdcsr_of_none reads⟩
    | some v => exact ⟨_, exec_rdcsr_of_some reads⟩

theorem issue_completes (c : Command) : ∃ t, issue c s = .next t := by
  cases hc : decode c with
  | error e => exact ⟨_, issue_of_decode_error hc s⟩
  | ok i =>
    rw [issue_of_decode hc]
    exact exec_completes params count i

/-! ## Each command keeps the invariant -/

/-- An accepted command's response says nothing of ERR, so the registers are all there is to keep. -/
theorem inv_respond (err : s.ErrOk) (v : Word) : (respond true v s).Inv := ⟨params, count, err, fun _ => nofun⟩

theorem inv_accept (err : s.ErrOk) : (accept s).Inv := inv_respond params count err s.status

/-- A rejection leaves PHASE or makes it UNINIT, which the invariant allows with the registers as they were. -/
theorem inv_reject (code : RejectCode) : (reject code s).Inv := by
  have phase : (reject code s).phase = s.phase ∨ (reject code s).phase = .uninit := by
    cases config : code.isConfig with
    | true => exact .inr (reject_phase_of_isConfig config s)
    | false => exact .inl (if_neg (by simp [config]))
  have ⟨_, small⟩ := code_range code
  refine ⟨params.imp_right fun ⟨uninit, regs⟩ => ⟨?_, regs⟩, count.imp_right fun ⟨counted, below⟩ => ⟨?_, below⟩,
    small, fun _ _ => ⟨rfl, code_ne_zero code⟩⟩
  · exact phase.elim (·.trans uninit) id
  · rcases phase with same | uninit
    · rwa [same]
    · exact .inr uninit

theorem inv_init {b : BitVec 8} {g : BitVec 10} {r : Word} (h : execInit b g r s = .next t) : t.Inv := by
  rcases execInit_cases h with ⟨legal, rfl⟩ | ⟨code, _, rfl⟩
  · exact inv_accept (.inl ((configError_none_iff r b g).mp legal)) (.inl rfl) (Nat.zero_le 7)
  · exact inv_reject params count code

/-- The byte that arrives leaves the block short of CFG_B, or completes it and BCOUNT is 0. -/
theorem inv_absorb {d : Byte} (err : s.ErrOk) (h : execAbsorb d s = .next t) : t.Inv := by
  rcases execAbsorb_cases h with ⟨hopen, hb, rfl⟩ | ⟨_, rfl⟩
  · have legal := cfgLegal_of_ne_uninit params (ne_uninit_of_isOpen hopen)
    have ⟨below, _⟩ := room_of_isOpen params count hopen
    rcases absorbIfFull_cases (pushByte d s hb) with ⟨_, e⟩ | ⟨waits, e⟩ <;> rw [e]
    · exact inv_accept (.inl legal) (.inl rfl) err
    · have short : s.bcount.toNat + 1 ≠ s.cfgB.toNat := mt (pushByte_full_iff d s hb).mpr waits
      refine inv_accept (.inl legal) (.inr ⟨.inl rfl, ?_⟩) err
      rw [pushByte_bcount_toNat, pushByte_cfgB]
      omega
  · exact inv_reject params count .phase

theorem inv_final (err : s.ErrOk) (h : execFinal s = .next t) : t.Inv := by
  rcases execFinal_cases h with ⟨hopen, _, rfl⟩ | ⟨_, rfl⟩
  · have legal := cfgLegal_of_ne_uninit params (ne_uninit_of_isOpen hopen)
    refine inv_accept (.inl ?_) (.inl (by simp)) ?_
    · simpa [State.CfgLegal] using legal
    · simpa using err
  · exact inv_reject params count .phase

theorem exec_inv {i : Instr} (err : s.ErrOk) (h : exec i s = .next t) : t.Inv := by
  cases i with
  | init b g r => exact inv_init params count h
  | absorb d => exact inv_absorb params count err h
  | final => exact inv_final params count err h
  | nop | perm _ | rdstate _ | wrstate _ _ | rddigest _ | rdcsr _ =>
    rcases exec_words_or_reject h nofun nofun nofun with ⟨x, v, rfl⟩ | ⟨code, rfl⟩
    · exact inv_respond params count err v
    · exact inv_reject params count code

theorem issue_inv {c : Command} (err : s.ErrOk) (h : issue c s = .next t) : t.Inv := by
  rcases issue_cases h with ⟨e, _, rfl⟩ | ⟨i, _, hx⟩
  · exact inv_reject params count _
  · exact exec_inv params count err hx

end

/-- The registers as reset sets them meet the invariant where no response is signalled. -/
theorem AfterReset.inv (a : AfterReset s) (quiet : s.rspValid = false) : s.Inv := by
  refine ⟨.inr ⟨a.phase, a.cfgR, a.cfgB, a.cfgH⟩, .inl a.bcount, ?_, fun valid => ?_⟩
  · rw [State.ErrOk, a.err]
    exact Nat.zero_le 7
  · cases quiet.symm.trans valid

end

/-! ## The obligations -/

/-- Settles O54: reset leaves the parameter registers and BCOUNT at 0 and signals no response. -/
theorem resetMeetsTheInvariant : Obligations.ResetMeetsTheInvariant := afterReset_reset.inv rfl

/-- Settles O55: an idle step lowers rsp_valid, a command keeps the invariant, and a reset establishes it. -/
theorem everyStepKeepsTheInvariant : Obligations.EveryStepKeepsTheInvariant := by
  rintro s t ⟨params, count, err, _⟩ h
  rcases step_cases h with ⟨_, rfl⟩ | ⟨c, rest, _, hc⟩ | ⟨_, rest, _, _, rfl⟩
  · exact ⟨params, count, err, nofun⟩
  · exact issue_inv (s := { s with stream := rest }) params count err hc
  · exact (afterReset_applyReset _).inv (applyReset_rspValid _)

/-- Settles O36: only ABSORB and FINAL can stop, and the invariant gives BUF the bytes they write. -/
theorem everyStepCompletes : Obligations.EveryStepCompletes := by
  rintro s ⟨params, count, _, _⟩
  cases hs : s.stream with
  | nil => exact ⟨_, step_of_empty hs⟩
  | cons input rest =>
    rw [step_of_input hs]
    cases input with
    | command c => exact issue_completes (s := { s with stream := rest }) params count c
    | reset => exact ⟨_, rfl⟩
    | resetDuring c => exact ⟨_, rfl⟩

/-- Settles O37: the check of BUF comes after that of PHASE and fails. -/
theorem bufferIndexStops : Obligations.BufferIndexStops := by
  intro s hp
  have hopen := (isOpen_iff _).mpr hp
  refine ⟨fun d full => (if_pos hopen).trans (dif_neg (Nat.not_lt.mpr full)), fun outside => ?_⟩
  exact (if_pos hopen).trans (if_neg (by simp [State.blockFits]; omega))

end Sys2Proof.Machine
end

section
/-! What the commands leave unchanged (spec/10_state.md R31, and the registers each command writes). -/

namespace Sys2Proof.Machine

/-! ## The operations of ABSORB and FINAL -/

theorem SameParams.refl (s : State) : SameParams s s := ⟨rfl, rfl, rfl, rfl, rfl⟩

theorem sameParams_absorbIfFull (s : State) : SameParams s (absorbIfFull s) := by
  rcases absorbIfFull_cases s with ⟨_, e⟩ | ⟨_, e⟩ <;> rw [e]
  · simp [SameParams]
  · exact .refl s

theorem absorbIfFull_buf (s : State) : (absorbIfFull s).buf = s.buf := by
  rcases absorbIfFull_cases s with ⟨_, e⟩ | ⟨_, e⟩ <;> rw [e]
  simp

/-- No command but INIT writes the parameter registers, and none the host's inputs. -/
theorem exec_sameParams {i : Instr} {s t : State} (h : exec i s = .next t) (hi : ∀ b g r, i ≠ .init b g r) :
    SameParams s t := by
  cases i with
  | init b g r => exact absurd rfl (hi b g r)
  | absorb d =>
    rcases execAbsorb_cases h with ⟨_, hb, rfl⟩ | ⟨_, rfl⟩
    · exact sameParams_absorbIfFull (pushByte d s hb)
    · exact .refl s
  | final =>
    rcases execFinal_cases h with ⟨_, _, rfl⟩ | ⟨_, rfl⟩
    · simp [SameParams]
    · exact .refl s
  | nop | perm _ | rdstate _ | wrstate _ _ | rddigest _ | rdcsr _ =>
    rcases exec_words_or_reject h nofun nofun nofun with ⟨x, v, rfl⟩ | ⟨code, rfl⟩ <;> exact .refl s

/-! ## BUF and BCOUNT -/

theorem exec_perm_wrstate_keeps {i : Instr} {s t : State} (hi : (∃ n, i = .perm n) ∨ ∃ j v, i = .wrstate j v)
    (h : exec i s = .next t) : t.buf = s.buf ∧ t.bcount = s.bcount ∧ t.phase = s.phase := by
  rcases hi with ⟨n, rfl⟩ | ⟨j, v, rfl⟩
  · rcases execPerm_cases h with ⟨_, rfl⟩ | ⟨_, rfl⟩ <;> exact ⟨rfl, rfl, rfl⟩
  · rcases execWrstate_cases h with ⟨_, rfl⟩ | ⟨_, rfl⟩ <;> exact ⟨rfl, rfl, rfl⟩

/-- ABSORB writes BUF[BCOUNT] and no other byte. -/
theorem exec_absorb_buf {d : Byte} {s t : State} (h : exec (.absorb d) s = .next t) (j : Fin 128)
    (hj : j.val ≠ s.bcount.toNat) : t.buf[j] = s.buf[j] := by
  rcases execAbsorb_cases h with ⟨_, hb, rfl⟩ | ⟨_, rfl⟩
  · rw [accept_buf, absorbIfFull_buf, pushByte_buf]
    exact Vector.getElem_set_ne hb j.isLt hj.symm
  · rfl

/-- FINAL writes BUF[BCOUNT] and the bytes above it in the block. -/
theorem exec_final_buf {s t : State} (h : exec .final s = .next t) (j : Fin 128)
    (hj : j.val < s.bcount.toNat ∨ (s.cfgB.toNat ≤ j.val ∧ j.val ≠ s.bcount.toNat)) : t.buf[j] = s.buf[j] := by
  rcases execFinal_cases h with ⟨_, _, rfl⟩ | ⟨_, rfl⟩
  · simp only [accept_buf, finish_buf, clearCount_buf, absorbBlock_buf, padBlock_buf, Fin.getElem_fin, padBytes_getElem]
    rw [if_neg (by omega), if_neg (by omega)]
  · rfl

/-- Settles O29: the frames command by command, and ERR from how an accepted command ends. -/
theorem writersLeaveTheRest : Obligations.WritersLeaveTheRest := by
  refine ⟨fun i s t hi h => ?_, fun d s t h => ?_, fun s t h => ?_, fun b g r s t h => ?_⟩
  · have other : ∀ b g r, i ≠ .init b g r := by rcases hi with ⟨n, rfl⟩ | ⟨j, v, rfl⟩ <;> exact nofun
    obtain ⟨buf, bcount, phase⟩ := exec_perm_wrstate_keeps hi h
    exact ⟨buf, bcount, phase, exec_sameParams h other, fun ok => exec_accepted_err h ok other⟩
  · exact ⟨exec_sameParams h nofun, fun ok => exec_accepted_err h ok nofun, exec_absorb_buf h⟩
  · exact ⟨exec_sameParams h nofun, fun ok => exec_accepted_err h ok nofun, exec_final_buf h⟩
  · rcases execInit_cases h with ⟨_, rfl⟩ | ⟨_, _, rfl⟩ <;> exact ⟨rfl, rfl, rfl⟩

/-! ## X -/

theorem exec_read_x {i : Instr} {s t : State}
    (hi : i = .nop ∨ (∃ j, i = .rdstate j) ∨ (∃ k, i = .rddigest k) ∨ (∃ c, i = .rdcsr c)) (h : exec i s = .next t) :
    t.x = s.x :=
  have ⟨⟨words, _⟩, _⟩ := readsHaveNoSideEffects i s t hi h
  words

theorem exec_absorb_x_of_waits {d : Byte} {s t : State} (h : exec (.absorb d) s = .next t)
    (waits : s.bcount + 1 ≠ s.cfgB) : t.x = s.x := by
  rcases execAbsorb_cases h with ⟨_, hb, rfl⟩ | ⟨_, rfl⟩
  · have same : absorbIfFull (pushByte d s hb) = pushByte d s hb := if_neg waits
    rw [accept_x, same, pushByte_x]
  · rfl

theorem exec_wrstate_x {i : BitVec 5} {v : Word} {s t : State} (h : exec (.wrstate i v) s = .next t) (j : Fin 32)
    (hj : j.val ≠ i.toNat) : t.x[j] = s.x[j] := by
  rcases execWrstate_cases h with ⟨_, rfl⟩ | ⟨_, rfl⟩
  · exact (writeWord_getElem s.x i v j j.isLt).trans (if_neg hj)
  · rfl

theorem exec_rejected_x {i : Instr} {s t : State} (h : exec i s = .next t) (rejected : t.rspOk = false) :
    t.x = s.x := by
  rcases exec_ends h with ⟨ok, _⟩ | ⟨code, rfl, _⟩
  · cases rejected.symm.trans ok
  · rfl

/-- Settles O9: the reads and the rejections write no word, and ABSORB and WRSTATE write those their operation does. -/
theorem whichCommandsWriteWords : Obligations.WhichCommandsWriteWords :=
  ⟨fun _ _ => exec_read_x (.inl rfl), fun c _ _ => exec_read_x (.inr (.inr (.inr ⟨c, rfl⟩))),
    fun i _ _ => exec_read_x (.inr (.inl ⟨i, rfl⟩)), fun k _ _ => exec_read_x (.inr (.inr (.inl ⟨k, rfl⟩))),
    fun _ _ _ => exec_absorb_x_of_waits, fun _ _ _ _ => exec_wrstate_x, fun _ _ _ => exec_rejected_x⟩

end Sys2Proof.Machine
end

section
/-! The ports edge by edge (spec/30_encoding.md R80, spec/70_reset_and_hazards.md R291, R297). -/

namespace Sys2Proof.Machine

/-! ## One edge -/

theorem edge_reset {p : PortInputs} (hp : p.rst = true) (m : Clocked) : edge p m = .next ⟨applyReset m.core, none⟩ :=
  if_pos hp

section
variable {p : PortInputs} (noReset : p.rst = false)
include noReset

/-- With no command in progress, one that is offered transfers. -/
theorem edge_transfers (offered : p.cmdValid = true) {m : Clocked} (free : m.inFlight = none) :
    edge p m = .next ⟨idle m.core, some ⟨p.command, cmdLatency p.command m.core - 1⟩⟩ := by
  simp [edge, noReset, free, offered]

/-- A command in progress takes no notice of the ports until its last edge. -/
theorem edge_waits (s : State) (c : Command) (n : Nat) :
    edge p ⟨s, some ⟨c, n + 1⟩⟩ = .next ⟨s, some ⟨c, n⟩⟩ := by
  simp [edge, noReset]

theorem edge_ends (s : State) (c : Command) : edge p ⟨s, some ⟨c, 0⟩⟩ = endCommand (issue c s) := by
  simp [edge, noReset]

end

theorem edges_cons {p : PortInputs} {m u : Clocked} (h : edge p m = .next u) (rest : List PortInputs) :
    edges (p :: rest) m = edges rest u := by
  simp only [edges, h]

/-! ## The edges of a command -/

/-- Fewer edges than are left leave the command in progress. -/
theorem edges_wait {l : List PortInputs} (noReset : ∀ q ∈ l, q.rst = false) (s : State) (c : Command)
    {n k : Nat} (hn : n = k + l.length) : edges l ⟨s, some ⟨c, n⟩⟩ = .next ⟨s, some ⟨c, k⟩⟩ := by
  subst hn
  induction l with
  | nil => rfl
  | cons q l ih =>
    obtain ⟨hq, hl⟩ := List.forall_mem_cons.mp noReset
    rw [List.length_cons, ← Nat.add_assoc, edges_cons (edge_waits hq s c _)]
    exact ih hl

/-- The last edge of those that are left ends the command. -/
theorem edges_end {l : List PortInputs} (noReset : ∀ q ∈ l, q.rst = false) {s t : State} {c : Command}
    (h : issue c s = .next t) {n : Nat} (hn : l.length = n + 1) : edges l ⟨s, some ⟨c, n⟩⟩ = .next ⟨t, none⟩ := by
  induction l generalizing n with
  | nil => cases hn
  | cons q l ih =>
    obtain ⟨hq, hl⟩ := List.forall_mem_cons.mp noReset
    obtain rfl : l.length = n := Nat.succ.inj hn
    cases l with
    | nil =>
      refine edges_cons ((edge_ends hq s c).trans ?_) []
      rw [h]
      rfl
    | cons q' l => exact (edges_cons (edge_waits hq s c _) _).trans (ih hl rfl)

/-- Settles O17: the transfer starts the count of edges, the edges before the last change nothing but the count, and the
last one ends the command; a reset comes first at every edge. -/
theorem commandTakesItsLatency : Obligations.CommandTakesItsLatency := by
  refine ⟨fun m p rest t free noReset offered quiet latency h => ?_, fun m p hp => ⟨_, edge_reset hp m, rfl, rfl, ?_⟩⟩
  · have positive : 1 ≤ rest.length := latency ▸ Nat.le_add_right 1 _
    have transfer := edge_transfers noReset offered free
    rw [← latency] at transfer
    refine ⟨positive, (edges_cons transfer rest).trans (edges_end quiet h (by omega)), fun k hk => ?_⟩
    have early : (rest.take k).length = k := List.length_take_of_le hk.le
    refine ⟨⟨idle m.core, some ⟨p.command, rest.length - 1 - k⟩⟩, (edges_cons transfer _).trans ?_, rfl, rfl, rfl⟩
    exact edges_wait (fun q hq => quiet q (List.mem_of_mem_take hq)) _ _ (by omega)
  · exact applyReset_rspValid _

end Sys2Proof.Machine
end

section
/-! The pseudo-instruction `iv`, and a `hash` with illegal parameters (spec/30_encoding.md R96). -/

namespace Sys2Proof.Machine

open Pipeline

/-- Numbers that fit the fields of INIT are the values of its fields. -/
theorem exists_fields {r b h : Nat} (hr : r < 2 ^ 32) (hb : b < 256) (hh : h < 1024) :
    ∃ (r' : Word) (b' : BitVec 8) (h' : BitVec 10), r'.toNat = r ∧ b'.toNat = b ∧ h'.toNat = h :=
  ⟨.ofNatLT r hr, .ofNatLT b hb, .ofNatLT h hh, rfl, rfl, rfl⟩

/-! ## `iv` -/

/-- The indices of X, in order. -/
def stateIndices : List (BitVec 5) := (List.range 32).map (BitVec.ofNat 5)

theorem map_readWord_stateIndices (x : Words) : stateIndices.map (readWord x) = x.toList := by
  refine List.ext_getElem (by simp [stateIndices]) fun k _ hk => ?_
  have inRange : k < 32 := by simpa using hk
  have index : (BitVec.ofNat 5 k).toNat = k := Nat.mod_eq_of_lt inRange
  simp [stateIndices, readWord, index]

/-- `iv` expands to INIT and the reads of the 32 words (R96). -/
theorem expand_iv (b : BitVec 8) (h : BitVec 10) (r : Word) :
    expand (.iv r.toNat b.toNat h.toNat) = List.map Instr.toAsm (.init b h r :: stateIndices.map .rdstate) := rfl

/-- Reads of X are accepted outside UNINIT and answer its words; none changes what the next one reads. -/
theorem accepts_rdstates (is : List (BitVec 5)) {s : State} (hp : s.phase ≠ .uninit) :
    ∃ t, Accepts (is.map .rdstate) s (is.map fun i => ⟨true, readWord s.x i⟩) t := by
  induction is generalizing s with
  | nil => exact ⟨s, .nil s⟩
  | cons i is ih =>
    obtain ⟨t, a⟩ := ih (s := respond true (readWord s.x i) s) hp
    exact ⟨t, .cons (exec_rdstate_of_ne_uninit hp i) rfl a⟩

/-- Settles O47: INIT leaves the IV in X, and the reads answer X word by word. -/
theorem ivReturnsTheWords : Obligations.IvReturnsTheWords := by
  intro r b h s legal
  have ⟨_, hr, _, hb, _, hh, _⟩ := legal
  obtain ⟨r, b, h, rfl, rfl, rfl⟩ := exists_fields hr (by omega : b < 256) (by omega : h < 1024)
  obtain ⟨u, init, ok, inited, words⟩ : ∃ u, exec (.init b h r) s = .next u ∧ u.rspOk = true ∧ u.phase = .inited ∧
      u.x = Pipeline.iv r.toNat b.toNat h.toNat := ⟨_, exec_init_of_legal legal s, rfl, rfl, ivWords_eq_iv r b h⟩
  obtain ⟨t, reads⟩ := accepts_rdstates stateIndices (s := u) (by simp [inited])
  have all := Accepts.cons init ok reads
  refine ⟨_, _, t, assemble_of_expand (expand_iv b h r), all.hostRun_eq, all.all_ok, ?_⟩
  rw [← words, ← map_readWord_stateIndices, List.drop_one, List.tail_cons, List.map_map]
  rfl

/-! ## Illegal parameters -/

theorem exec_init_of_illegal {b : BitVec 8} {h : BitVec 10} {r : Word} (illegal : ¬ Legal r.toNat b.toNat h.toNat)
    (s : State) : ∃ code : RejectCode, exec (.init b h r) s = .next (reject code s) ∧ code.isConfig = true ∧
      code.code = if r.toNat = 0 then 1 else if b.toNat = 0 ∨ 128 < b.toNat then 2 else 3 := by
  rw [exec_init_eq_checks]
  split
  · exact ⟨.badR, rfl, rfl, rfl⟩
  · split
    · exact ⟨.badB, rfl, rfl, rfl⟩
    · have bad : h.toNat < 8 ∨ 512 < h.toNat ∨ h.toNat % 8 ≠ 0 := by
        unfold Legal at illegal
        omega
      rw [if_pos bad]
      exact ⟨.badH, rfl, rfl, rfl⟩

/-- A statement whose lines all fit assembles to their words. -/
theorem assemble_of_wellFormed {a : AsmStmt} (h : ∀ l ∈ expand a, l.wellFormed = true) :
    assemble a = some ((expand a).map lineWords) := by
  unfold assemble
  generalize expand a = lines at h ⊢
  induction lines with
  | nil => rfl
  | cons l ls ih =>
    obtain ⟨hl, hls⟩ := List.forall_mem_cons.mp h
    rw [List.mapM_cons, ih hls, assembleLine, if_pos hl]
    rfl

/-- Every line of `hash` fits where its parameters fit INIT's fields: h/8 is below 128. -/
theorem expand_hash_wellFormed {r b h : Nat} (hr : r < 2 ^ 32) (hb : b < 256) (hh : h < 1024) (m : List Byte) :
    ∀ l ∈ expand (.hash r b h (m.map BitVec.toNat)), l.wellFormed = true := by
  intro l hl
  simp only [expand, List.cons_append, List.mem_cons, List.mem_append, List.mem_map, List.mem_range] at hl
  rcases hl with rfl | ⟨_, ⟨d, _, rfl⟩, rfl⟩ | rfl | ⟨k, hk, rfl⟩
  · exact decide_eq_true ⟨hr, hb, hh⟩
  · exact decide_eq_true d.isLt
  · rfl
  · exact decide_eq_true (by omega)

/-- Settles O48: the lines fit, so the host issues INIT first, whose rejection stops it. -/
theorem illegalParametersGiveNoDigest : Obligations.IllegalParametersGiveNoDigest := by
  intro r b h m s hr hb hh illegal
  have words := assemble_of_wellFormed (expand_hash_wellFormed hr hb hh m)
  obtain ⟨r, b, h, rfl, rfl, rfl⟩ := exists_fields hr hb hh
  obtain ⟨code, rejected, config, err⟩ := exec_init_of_illegal illegal s
  refine ⟨_, (reject code s).response, reject code s, words, ?_, rfl, reject_phase_of_isConfig config s, err⟩
  have first : lineWords (.init r.toNat b.toNat h.toNat) = encode (.init b h r) := lineWords_toAsm (.init b h r)
  rw [expand, List.cons_append, List.map_cons, first, hostRun, issue_of_decode (decode_encode_init b h r), rejected]
  rfl

end Sys2Proof.Machine
end
